-- ==== Sys2Proof/Word.lean ====
section
/-!
DEFINITION. The widths of the machine's words and the shapes of the two device registers and of the carrier pin's function
(spec 00_scope.md R9, R11, R13; 10_state.md R28, R30, R34). Their bit positions are in Decode.lean and Machine/Device.lean.
-/

namespace Sys2Proof

/-- A 32-bit word: a command word, a response word, a register word or a physical address (R11, R28, R30, R56; PA_WIDTH = 32, R9). -/
abbrev Word := BitVec 32

/-- A register-block or register offset, counted in 32-bit words: the byte offset is four times it, so it is a multiple of 4 by
its type (R9, R43, D21). -/
abbrev WordOffset := BitVec 30

/-- A binary64 value as its IEEE 754 bit pattern: bit 63 sign, bits 62:52 biased exponent, bits 51:0 fraction (R13, R58). -/
abbrev F64 := BitVec 64

/-- The pattern of +0.0 (R38). -/
abbrev F64.zero : F64 := 0#64

/-- What the clock generator's CTL register stores (R28): bits 3:0 SRC, 4 ENAB, 5 KILL, 7 BUSY, 8 FLIP, 10:9 MASH.
PASSWD (31:24) is write-only and bits 23:11 and 6 are reserved and not loaded by a write (R71), so neither is stored. -/
structure CtlReg where
  src  : BitVec 4
  enab : Bool
  kill : Bool
  busy : Bool
  flip : Bool
  mash : BitVec 2
  deriving DecidableEq, Repr, Inhabited

/-- What the clock generator's DIV register stores (R30): bits 23:12 DIVI and 9:0 DIVF.
PASSWD is write-only and bits 11:10 are not loaded by a write (R71), so neither is stored. -/
structure DivReg where
  divI : BitVec 12
  divF : BitVec 10
  deriving DecidableEq, Repr, Inhabited

/-- The carrier pin's function, owned by carrier_gpio_controller (R34). -/
inductive PinFunc where
  | input
  | clockAlt
  | other
  deriving DecidableEq, Repr, Inhabited

/-- The two registers the engine reaches (R36). A register-bus access names one of them; its physical address is computed
in Machine/Ops.lean by R44. -/
inductive BusReg where
  | ctl
  | div
  deriving DecidableEq, Repr

end Sys2Proof
end

