-- ==== Sys2Proof/Config.lean ====
section
/-!
DEFINITION. The parameters of the model (spec 00_scope.md R9), the environment's answers (10_state.md R35), and the free
values: constants with no body that nothing in Lean can evaluate (assumptions 2, 4, 5 and 6).
-/

namespace Sys2Proof

/-- One row of the candidate table SOURCES (R17). -/
structure Source where
  id      : BitVec 4
  label   : String
  enabled : Bool
  deriving DecidableEq, Repr, Inhabited

/-- The parameter NUMERICS (R85). -/
inductive Numerics where
  | binary64
  | exact
  deriving DecidableEq, Repr, Inhabited

/-- The OPEN parameters of R9, fixed for a run (R17). The spec's constraints hold by their types: SOURCES has a first entry
(N_SOURCES ≥ 1), POLL_MAX is a positive natural, and the offsets count words (R43: multiples of 4). -/
structure Config where
  firstSource     : Source
  moreSources     : List Source
  numerics        : Numerics
  cmBlockOffset   : WordOffset
  ctlOffset       : WordOffset
  divOffset       : WordOffset
  gpioBlockOffset : WordOffset
  settleTime      : Nat
  pollMax         : ℕ+
  pollInterval    : Nat
  deriving DecidableEq, Repr, Inhabited

/-- The table SOURCES (R17). -/
def Config.sources (c : Config) : List Source := c.firstSource :: c.moreSources

/-- RATIO_MIN (R9): the least accepted division, inclusive. -/
def Config.ratioMin : ℚ := 2

/-- RATIO_MAX (R9): the greatest accepted division, inclusive. -/
def Config.ratioMax : ℚ := 4095

/-- FRAC_SCALE (R9): 1024 = 2^DIVF_BITS, DIVF_BITS = 10. -/
def Config.fracScale : Nat := 1024

/-- PASSWD (R9, R31): the value bits 31:24 of every register write must hold. -/
def Config.passwd : BitVec 8 := 0x5A#8

/-- MASH_MODE (R9): single-stage averaging. -/
def Config.mashMode : BitVec 2 := 1#2

/-- The size of the mapping's page: a probed base is a multiple of it (R43). -/
def Config.pageSize : Nat := 4096

/-- Draw(probe) (R35). -/
inductive ProbeAnswer where
  | known (base : Word)
  | inconclusive
  deriving DecidableEq, Repr, Inhabited

/-- Draw(map) (R35). -/
inductive MapAnswer where
  | ok
  | fail
  deriving DecidableEq, Repr, Inhabited

/-- Draw(meas[i]) (R35); a parse failure is `unavailable`. -/
inductive MeasAnswer where
  | value (v : F64)
  | unavailable
  deriving DecidableEq, Repr, Inhabited

/-- FREE VALUE: the parameters of the machine that `State.reset` stands for (R9 OPEN, U1, U2, U14, U15, U19). -/
opaque Config.params : Config

/-- FREE VALUE: what CTL holds when the engine is reset: any value (R38, R151, U11). -/
opaque Config.resetCtl : CtlReg

/-- FREE VALUE: what DIV holds when the engine is reset: any value (R38, R151, U11). -/
opaque Config.resetDiv : DivReg

/-- FREE VALUE: the carrier pin's function when the engine is reset: any value (R38, R151, U11). -/
opaque Config.resetPin : PinFunc

/-- FREE VALUE: the page a probe resolves, or none for an inconclusive probe (U6). A page, not an address: R43 admits only
multiples of 4096. -/
opaque Config.freeProbePage : Nat → Option (BitVec 20)

/-- FREE VALUE: the mapping's result (U8). -/
opaque Config.freeMap : Nat → MapAnswer

/-- FREE VALUE: one source's measurement (U9). -/
opaque Config.freeMeas : Nat → MeasAnswer

/-- FREE VALUE: whether the clock generator makes its change of BUSY now (R33, U10). -/
opaque Config.freeBusyMove : Nat → Bool

/-- FREE VALUE: what a register read returns in the bits that the device is free in: PASSWD, ENAB, KILL and the reserved bits
of CTL (R41, U12), the reserved bits of DIV (U13). -/
opaque Config.freeReadBits : Nat → Word

end Sys2Proof
end

