-- ==== Sys2Proof/Syntax.lean ====
section
/-!
DEFINITION. The instructions (one constructor per row of spec/opcode_table.json, R72), the transfers that carry them, and
the program lines of R61 and R62.
-/

namespace Sys2Proof

/-- The seven rows of the opcode map (R72): four commands, and the three register-word forms the engine emits on the register
bus, whose meanings are the micro-steps P1, P3 and S2. -/
inductive Instr where
  /-- INIT (R77). -/
  | init
  /-- REFRESH (R80). -/
  | refresh
  /-- SELPROG with its 64-bit operand TGT (R58, R108). -/
  | selprog (tgt : F64)
  /-- STOP (R119). -/
  | stop
  /-- WR_DIV: a CM_DIV_WORD (R67, R110). -/
  | wrDiv (divI : BitVec 12) (divF : BitVec 10)
  /-- WR_CTL_ENABLE: a CM_CTL_WORD with ENAB = 1 (R69, R111). -/
  | wrCtlEnable (src : BitVec 4)
  /-- WR_CTL_DISABLE: a CM_CTL_WORD with ENAB = 0, keeping SRC, FLIP and MASH (R70, R114). -/
  | wrCtlDisable (src : BitVec 4) (flip : Bool) (mash : BitVec 2)
  deriving DecidableEq, Repr

/-- The carriers of an instruction: a command word with its operand on the command interface (R56), or one aligned 32-bit
register write on the register bus (R41), told apart from one another by the register's address (R71). -/
inductive Transfer where
  | command (cmd : Word) (tgt : F64)
  | write (reg : BusReg) (word : Word)
  deriving DecidableEq, Repr

/-- One line of a program (R61); `start` is the one pseudo-instruction (R62). A target is the number its decimal literal
denotes. -/
inductive ProgramLine where
  | init
  | refresh
  | selprog (target : ℚ)
  | stop
  | word (cmd : Word)
  | start (target : ℚ)
  deriving DecidableEq, Repr

end Sys2Proof
end

