-- ==== Sys2Proof/WellFormed.lean ====
section
/-!
DEFINITION. Which terms of Instr the spec gives a word: the field types carry the widths, and what remains is the range of
a divider word's fields (spec 30_encoding.md R67, 41_ratio_computation.md R91).
-/

namespace Sys2Proof

/-- The engine emits only divider words with 2 ≤ DIVI, and DIVF = 0 where DIVI = 4095 (R30, R67, R91). Every other field
takes every value of its type: SRC any 4-bit code (R28), FLIP and MASH as read (R70), TGT any pattern (R58). -/
def Instr.wf : Instr → Bool
  | .init => true
  | .refresh => true
  | .selprog _ => true
  | .stop => true
  | .wrDiv divI divF => decide (2 ≤ divI.toNat) && (decide (divI.toNat < 4095) || decide (divF = 0#10))
  | .wrCtlEnable _ => true
  | .wrCtlDisable _ _ _ => true

end Sys2Proof
end

