-- ==== Sys2Proof/Decode.lean ====
section
/-!
DEFINITION. The decoder of a transfer, total and rejecting by name; the encoder; the opcode rows as data; and
`decodeTableWord` (spec 30_encoding.md R57 to R59, R67 to R72).
-/

namespace Sys2Proof

/-- Why a transfer is no instruction. -/
inductive DecodeError where
  /-- A command word outside R57: IllegalCommand (R59). -/
  | illegalCommand (cmd : Word)
  /-- Bits 31:24 of a register word are not 0x5A: the device ignores it (R31). -/
  | noPassword (word : Word)
  /-- A register word with the password that is none of the engine's three forms (R68, R71). -/
  | notAnEngineForm (word : Word)
  deriving DecidableEq, Repr

/-- A row of opcode_table.json: a word selects the row when it agrees with `pattern` on the bits of `mask`, on the row's own
interface (none: the command interface). -/
structure OpcodeRow where
  mnemonic : String
  reg      : Option BusReg
  pattern  : Word
  mask     : Word
  deriving DecidableEq, Repr

/-- Whether a word selects a row. -/
def OpcodeRow.selects (r : OpcodeRow) (w : Word) : Bool := w &&& r.mask == r.pattern

def rowInit : OpcodeRow := ⟨"INIT", none, 0x00000001#32, 0xFFFFFFFF#32⟩
def rowRefresh : OpcodeRow := ⟨"REFRESH", none, 0x00000002#32, 0xFFFFFFFF#32⟩
def rowSelprog : OpcodeRow := ⟨"SELPROG", none, 0x00000003#32, 0xFFFFFFFF#32⟩
def rowStop : OpcodeRow := ⟨"STOP", none, 0x00000004#32, 0xFFFFFFFF#32⟩
def rowWrDiv : OpcodeRow := ⟨"WR_DIV", some .div, 0x5A000000#32, 0xFF000C00#32⟩
def rowWrCtlEnable : OpcodeRow := ⟨"WR_CTL_ENABLE", some .ctl, 0x5A000210#32, 0xFFFFFFF0#32⟩
def rowWrCtlDisable : OpcodeRow := ⟨"WR_CTL_DISABLE", some .ctl, 0x5A000000#32, 0xFFFFF8F0#32⟩

/-- The opcode map (R72). -/
def opcodeRows : List OpcodeRow :=
  [rowInit, rowRefresh, rowSelprog, rowStop, rowWrDiv, rowWrCtlEnable, rowWrCtlDisable]

/-- The fields of a CTL word (R28). -/
def ctlSrcField (w : Word) : BitVec 4 := w.extractLsb' 0 4
def ctlEnabField (w : Word) : Bool := w.getLsbD 4
def ctlKillField (w : Word) : Bool := w.getLsbD 5
def ctlBusyField (w : Word) : Bool := w.getLsbD 7
def ctlFlipField (w : Word) : Bool := w.getLsbD 8
def ctlMashField (w : Word) : BitVec 2 := w.extractLsb' 9 2

/-- The fields of a DIV word (R30). -/
def divIField (w : Word) : BitVec 12 := w.extractLsb' 12 12
def divFField (w : Word) : BitVec 10 := w.extractLsb' 0 10

/-- The password field of a register word (R28, R30). -/
def passwdField (w : Word) : BitVec 8 := w.extractLsb' 24 8

/-- Decode a command word with its operand (R57, R58, R59). -/
def decodeCommand (cmd : Word) (tgt : F64) : Except DecodeError Instr :=
  if rowInit.selects cmd then .ok .init
  else if rowRefresh.selects cmd then .ok .refresh
  else if rowSelprog.selects cmd then .ok (.selprog tgt)
  else if rowStop.selects cmd then .ok .stop
  else .error (.illegalCommand cmd)

/-- Decode a register word by the register it is written to; on CTL, bit 4 tells enable from disable (R71). -/
def decodeWrite (reg : BusReg) (w : Word) : Except DecodeError Instr :=
  if passwdField w ≠ Config.passwd then .error (.noPassword w)
  else match reg with
    | .div =>
      if rowWrDiv.selects w then .ok (.wrDiv (divIField w) (divFField w))
      else .error (.notAnEngineForm w)
    | .ctl =>
      if rowWrCtlEnable.selects w then .ok (.wrCtlEnable (ctlSrcField w))
      else if rowWrCtlDisable.selects w then .ok (.wrCtlDisable (ctlSrcField w) (ctlFlipField w) (ctlMashField w))
      else .error (.notAnEngineForm w)

/-- The decoder. -/
def decode : Transfer → Except DecodeError Instr
  | .command cmd tgt => decodeCommand cmd tgt
  | .write reg w => decodeWrite reg w

/-- The divider word (R67). -/
def divWord (divI : BitVec 12) (divF : BitVec 10) : Word :=
  (Config.passwd.setWidth 32 <<< 24) ||| (divI.setWidth 32 <<< 12) ||| divF.setWidth 32

/-- The enable word (R69). -/
def enableWord (src : BitVec 4) : Word :=
  (Config.passwd.setWidth 32 <<< 24) ||| (Config.mashMode.setWidth 32 <<< 9) ||| (1#32 <<< 4) ||| src.setWidth 32

/-- The disable word made from a CTL value `r` (R70). -/
def disableWord (r : Word) : Word := (Config.passwd.setWidth 32 <<< 24) ||| (r &&& 0x0000070F#32)

/-- SRC, FLIP and MASH at their places in a CTL word (R28), every other bit zero. -/
def keptFields (src : BitVec 4) (flip : Bool) (mash : BitVec 2) : Word :=
  (mash.setWidth 32 <<< 9) ||| ((BitVec.ofBool flip).setWidth 32 <<< 8) ||| src.setWidth 32

/-- The encoder, from the same tables (R57, R67, R69, R70). A command that ignores TGT is given 0 there (R58). -/
def encode : Instr → Transfer
  | .init => .command 0x00000001#32 0#64
  | .refresh => .command 0x00000002#32 0#64
  | .selprog tgt => .command 0x00000003#32 tgt
  | .stop => .command 0x00000004#32 0#64
  | .wrDiv divI divF => .write .div (divWord divI divF)
  | .wrCtlEnable src => .write .ctl (enableWord src)
  | .wrCtlDisable src flip mash => .write .ctl (disableWord (keptFields src flip mash))

/-- The instruction that a bare table word spells, with no address to say which register it goes to (assumption 9): a word
without the password is a command; one with it is a CTL form where it matches one, else a divider word. No divider word
that the engine emits (DIVI ≥ 2) matches a CTL form, whose bits 23:11 are zero. Bits 95:32 are TGT. -/
def decodeTableWord (_nbits w : Nat) : Option Instr :=
  let word : Word := BitVec.ofNat 32 w
  let tgt : F64 := BitVec.ofNat 64 (w / 2 ^ 32)
  if passwdField word = Config.passwd then
    match decodeWrite .ctl word with
    | .ok i => some i
    | .error _ =>
      match decodeWrite .div word with
      | .ok i => some i
      | .error _ => none
  else
    match decodeCommand word tgt with
    | .ok i => some i
    | .error _ => none

end Sys2Proof
end

