-- ==== Sys2Proof/Machine/State.lean ====
section
/-!
DEFINITION. The machine's state, in the four parts of 10_state.md R15 (the engine's own state, the configuration, the device
state, the environment's answers), with the log of what the engine did at its interfaces; the reasons a step can stop; and
the state after reset (R38, R150, R151).
-/

namespace Sys2Proof.Machine

/-- The sequencer's labels (R25). -/
inductive Phase where
  | idle
  | i1
  | f1
  | p0
  | s1
  | s2
  | s3
  | s4
  | p1
  | p2
  | p3
  | p4
  | t0
  | t1
  deriving DecidableEq, Repr

/-- The status codes that are produced (R65); their numbers are in Flags.lean. -/
inductive Status where
  | ok
  | unsupportedPlatform
  | hardwareUnavailable
  | noSuitableSource
  | notInitialized
  | invalidTarget
  | illegalCommand
  deriving DecidableEq, Repr

/-- The reason codes that are produced (R66); their numbers are in Flags.lean. -/
inductive Reason where
  | accepted
  | disabled
  | noFrequency
  | ratioBelowMin
  | ratioAboveMax
  | notEvaluated
  deriving DecidableEq, Repr

/-- A selected candidate: the result registers selIdx, selSrc, divI, divF, actualHz and errHz (R20), and the shape of the
selection that SELPROG holds from P0 to P4 (R108). -/
structure Selection where
  idx      : Nat
  src      : BitVec 4
  divI     : BitVec 12
  divF     : BitVec 10
  actualHz : F64
  errHz    : F64
  deriving DecidableEq, Repr

/-- Cleared result registers (R38, R102). -/
def Selection.zero : Selection := ⟨0, 0#4, 0#12, 0#10, F64.zero, F64.zero⟩

/-- Which command called the stop sequence (R113, R118). -/
inductive StopCaller where
  | selprog
  | stop
  deriving DecidableEq, Repr

/-- The engine's own state (R16). The last four fields are what the micro-steps hold between one another: the operand
accepted with the command (R56, R58), the selection held for P1, P3 and P4 (R108), the value read at S1 (R114) and the
caller of the stop sequence (R118). -/
structure Engine where
  phase       : Phase
  init        : Bool
  periphBase  : Word
  freq        : List F64
  reason      : List Reason
  resValid    : Bool
  res         : Selection
  target      : F64
  status      : Status
  stopTimeout : Bool
  pollCount   : Nat
  tgtIn       : F64
  sel         : Selection
  ctlRead     : Word
  stopFor     : StopCaller
  deriving DecidableEq, Repr

/-- The device state the engine drives: the clock generator's two registers and the carrier pin's function (R28, R30, R34). -/
structure Device where
  ctl : CtlReg
  div : DivReg
  pin : PinFunc
  deriving DecidableEq, Repr

/-- One action of the outside world towards the machine (R56, R34, R145): a command with its operand, by a caller that waits
for the engine to be idle or by one that does not; or a change of the pin's function through carrier_gpio_controller. -/
inductive CallerAct where
  | present (cmd : Word) (tgt : F64) (waits : Bool)
  | setPin (f : PinFunc)
  deriving DecidableEq, Repr

/-- What the environment will do next: the caller's actions, and the answers to the draws of R35, the generator's moves (R33)
and the free bits of register reads (R41, U12), each in the order of use. A draw whose list is empty takes a free value of
Config at `drawn`, the number of draws made so far (assumption 4). -/
structure Env where
  caller   : List CallerAct
  probe    : List ProbeAnswer
  map      : List MapAnswer
  meas     : List MeasAnswer
  busy     : List Bool
  read     : List Word
  drawn    : Nat
  deriving DecidableEq, Repr

/-- What the engine did at its interfaces: register accesses (R41, R45), waits (R157), park requests (R118) and responses
(R26, R63). No step reads the log (assumption 8). -/
inductive Event where
  | read (addr value : Word)
  | write (addr value : Word)
  | wait (atLeast : Nat)
  | park
  | respond (resp : Word) (act : F64) (reasonOut : List (BitVec 3))
  deriving DecidableEq, Repr

/-- The machine's state (R15). -/
structure State where
  cfg   : Config
  eng   : Engine
  dev   : Device
  env   : Env
  trace : List Event
  deriving DecidableEq, Repr

/-- The reasons a step stops with a fault. -/
inductive Fault where
  /-- Raised by `step` when a command is presented while phase ≠ IDLE (R56, R137). Safe: the run stops, as the spec gives it
  no further meaning. -/
  | overrun
  deriving DecidableEq, Repr

/-- The reasons a step is refused. -/
inductive Refusal where
  /-- Raised by `exec` alone, for an instruction with no meaning yet. Safe: the run stops. -/
  | notModelled (mnemonic : String)
  /-- Raised by INIT on a probe answer that is not a multiple of 4096 (R43, R137). Safe: the spec refuses the run. -/
  | probeBaseMisaligned
  /-- Raised by `step` on a transfer of its own that does not decode; no state has one, as the obligation
  EachLabelRunsItsInstruction states. Safe: the run stops. -/
  | undecodable
  deriving DecidableEq, Repr

/-- The engine right after reset, for `n` sources (R38, R150); the four held fields are assumption 7. -/
def Engine.reset (n : Nat) : Engine where
  phase := .idle
  init := false
  periphBase := 0#32
  freq := List.replicate n F64.zero
  reason := List.replicate n .notEvaluated
  resValid := false
  res := Selection.zero
  target := F64.zero
  status := .ok
  stopTimeout := false
  pollCount := 0
  tgtIn := F64.zero
  sel := Selection.zero
  ctlRead := 0#32
  stopFor := .stop

/-- Nothing presented and no answer fixed in advance. -/
def Env.reset : Env := ⟨[], [], [], [], [], [], 0⟩

/-- The machine right after the engine's reset, for given parameters and given device state: reset touches neither CTL, DIV
nor the pin (R151). -/
def State.resetWith (cfg : Config) (dev : Device) : State :=
  ⟨cfg, Engine.reset cfg.sources.length, dev, Env.reset, []⟩

/-- The machine right after reset: parameters and device state are free values, since the spec leaves both open (R9, R151). -/
def State.reset : State :=
  State.resetWith Config.params ⟨Config.resetCtl, Config.resetDiv, Config.resetPin⟩

end Sys2Proof.Machine
end

