-- ==== Sys2Proof/Machine/Device.lean ====
section
/-!
DEFINITION. The clock generator channel: what a register write loads and what a register read returns (spec 10_state.md R28
to R31; 30_encoding.md R71), the generator's own move (R33), and its nominal output (R32).
-/

namespace Sys2Proof

/-- A CTL write with the password loads SRC, ENAB, KILL, FLIP and MASH and ignores every other bit, BUSY among them
(R29, R71). -/
def CtlReg.load (c : CtlReg) (w : Word) : CtlReg :=
  { c with
    src := ctlSrcField w, enab := ctlEnabField w, kill := ctlKillField w,
    flip := ctlFlipField w, mash := ctlMashField w }

/-- A DIV write with the password loads DIVI and DIVF and ignores bits 11:10 (R71). -/
def DivReg.load (_ : DivReg) (w : Word) : DivReg := ⟨divIField w, divFField w⟩

/-- A CTL read (R41): SRC, BUSY, FLIP and MASH as stored, at their places (R28); every other bit, PASSWD, ENAB, KILL and the
reserved bits 23:11 and 6, as the device gives it, `free` (U12; assumption 15). -/
def CtlReg.readWord (c : CtlReg) (free : Word) : Word :=
  (c.mash.setWidth 32 <<< 9) ||| ((BitVec.ofBool c.flip).setWidth 32 <<< 8)
    ||| ((BitVec.ofBool c.busy).setWidth 32 <<< 7) ||| c.src.setWidth 32
    ||| (free &&& 0xFFFFF870#32)

/-- A DIV read (R30, R41): DIVI and DIVF as stored, PASSWD as 0, the reserved bits 11:10 as the device gives them (U13). The
engine makes none (R45). -/
def DivReg.readWord (d : DivReg) (free : Word) : Word :=
  (d.divI.setWidth 32 <<< 12) ||| d.divF.setWidth 32 ||| (free &&& 0x00000C00#32)

/-- The generator's change of BUSY (R33): to 1 where ENAB = 1 and KILL = 0, to 0 where ENAB = 0 or KILL = 1. -/
def CtlReg.moveBusy (c : CtlReg) : CtlReg := { c with busy := c.enab && !c.kill }

/-- The divisor DIVI + DIVF/1024 (R30). -/
def DivReg.divisor (d : DivReg) : ℚ := d.divI.toNat + d.divF.toNat / 1024

/-- The average output frequency while BUSY = 1, for a source of true frequency `fSrc` (R32). For observation only: no step
reads it, and the real output is open (U17, U18). -/
def DivReg.outputHz (d : DivReg) (fSrc : ℚ) : ℚ := fSrc / d.divisor

namespace Machine

/-- A register write: no effect unless bits 31:24 hold the password (R31), else the register loads the word (R71). -/
def Device.writeReg (d : Device) (reg : BusReg) (w : Word) : Device :=
  if passwdField w ≠ Config.passwd then d
  else match reg with
    | .ctl => { d with ctl := d.ctl.load w }
    | .div => { d with div := d.div.load w }

/-- The value a register read returns. -/
def Device.readReg (d : Device) (reg : BusReg) (free : Word) : Word :=
  match reg with
  | .ctl => d.ctl.readWord free
  | .div => d.div.readWord free

end Machine

end Sys2Proof
end

