-- ==== Sys2Proof/Machine/Flags.lean ====
section
/-!
DEFINITION. The numbers of the status and reason codes, the response word RESP, the value ACT and the reason outputs
(spec 30_encoding.md R63 to R66; 10_state.md R26, R27). The engine has no arithmetic condition codes (R27).
-/

namespace Sys2Proof.Machine

/-- The STATUS field (R65). -/
def Status.code : Status → BitVec 4
  | .ok => 0#4
  | .unsupportedPlatform => 1#4
  | .hardwareUnavailable => 2#4
  | .noSuitableSource => 3#4
  | .notInitialized => 4#4
  | .invalidTarget => 5#4
  | .illegalCommand => 6#4

/-- The code of a reason (R66). -/
def Reason.code : Reason → BitVec 3
  | .accepted => 0#3
  | .disabled => 1#3
  | .noFrequency => 2#3
  | .ratioBelowMin => 3#3
  | .ratioAboveMax => 4#3
  | .notEvaluated => 7#3

/-- RESP (R63): SELSRC in 11:8, VALID in 5, STOPTO in 4, STATUS in 3:0, zero elsewhere. -/
def Engine.resp (e : Engine) : Word :=
  (e.res.src.setWidth 32 <<< 8) ||| ((BitVec.ofBool e.resValid).setWidth 32 <<< 5)
    ||| ((BitVec.ofBool e.stopTimeout).setWidth 32 <<< 4) ||| e.status.code.setWidth 32

/-- ACT (R63). -/
def Engine.act (e : Engine) : F64 := e.res.actualHz

/-- reasonOut (R56). -/
def Engine.reasonOut (e : Engine) : List (BitVec 3) := e.reason.map Reason.code

/-- The response event (R26): RESP, ACT and reasonOut, built from the engine's state at that moment. -/
def Engine.response (e : Engine) : Event := .respond e.resp e.act e.reasonOut

/-- A command's acceptance clears stopTimeout (R25). -/
def Engine.clearStopTimeout (e : Engine) : Engine := { e with stopTimeout := false }

end Sys2Proof.Machine
end

