-- ==== Sys2Proof/Machine/Operands.lean ====
section
/-!
DEFINITION. The operand form of the engine: the binary64 value (spec 00_scope.md R13, R14; 30_encoding.md R58;
41_ratio_computation.md R85, R86), its value as a rational number, rounding to nearest with ties to even, comparison, and
the sanitizing of a measurement (40_initialize_refresh.md R81).
-/

namespace Sys2Proof

/-- The fields of a binary64 pattern (R58). -/
def F64.sign (x : F64) : Bool := x.msb
def F64.expo (x : F64) : Nat := x.toNat / 2 ^ 52 % 2 ^ 11
def F64.frac (x : F64) : Nat := x.toNat % 2 ^ 52

def F64.isFinite (x : F64) : Bool := x.expo != 2047
def F64.isNaN (x : F64) : Bool := x.expo == 2047 && x.frac != 0
def F64.isInf (x : F64) : Bool := x.expo == 2047 && x.frac == 0

/-- The pattern of +∞. -/
def F64.inf : F64 := 0x7FF0000000000000#64

/-- 2^1074: the least positive binary64 value is its inverse, and every finite value is a multiple of that. (Irreducible, so
that no tactic evaluates the power by accident.) -/
@[irreducible] def F64.unitsPerOne : Nat := 2 ^ 1074

/-- The magnitude of a finite value in units of 2^-1074. -/
def F64.units (x : F64) : Nat :=
  if x.expo = 0 then x.frac else (2 ^ 52 + x.frac) * 2 ^ (x.expo - 1)

/-- The rational number a finite pattern denotes (0 for the patterns that denote none). -/
def F64.toRat (x : F64) : ℚ :=
  if x.isFinite then mkRat (if x.sign then -(x.units : ℤ) else (x.units : ℤ)) F64.unitsPerOne else 0

/-- The integer nearest to a / b, a tie going to the even one. -/
def roundDivEven (a b : Nat) : Nat :=
  if 2 * (a % b) < b then a / b
  else if b < 2 * (a % b) then a / b + 1
  else a / b + a / b % 2

/-- The magnitude pattern nearest to p / q, ties to even, overflowing to +∞ (R85). With n units in p / q rounded down, the
values around it are 2^k units apart, k = log2 n - 52; a pattern is k·2^52 plus the rounded count of such steps, for
subnormal (k = 0) and normal values alike, and a count of 2^53 carries into the exponent. -/
def F64.roundMagnitude (p q : Nat) : Nat :=
  let a := p * F64.unitsPerOne
  let k := (a / q).log2 - 52
  min (k * 2 ^ 52 + roundDivEven a (q * 2 ^ k)) (2047 * 2 ^ 52)

/-- The binary64 value nearest to a rational number, ties to even (R85); 0 gives +0.0. -/
def F64.ofRat (x : ℚ) : F64 :=
  BitVec.ofNat 64 ((if x < 0 then 2 ^ 63 else 0) + F64.roundMagnitude x.num.natAbs x.den)

/-- The IEEE 754 ordered comparison x < y: false when an operand is NaN (R14). -/
def F64.lt (x y : F64) : Bool :=
  if x.isNaN || y.isNaN then false
  else if x.isInf then x.sign && !(y.isInf && y.sign)
  else if y.isInf then !y.sign
  else decide (x.toRat < y.toRat)

/-- `x > 0` (R14). -/
def F64.isPositive (x : F64) : Bool := F64.lt F64.zero x

/-- roundHalfUp(x) = floor(x + 1/2), for x ≥ 0 (R86). -/
def roundHalfUp (x : ℚ) : Nat := ⌊x + 1 / 2⌋₊

namespace Machine

/-- SELPROG's guard on its operand: finite and > 0 (R108). -/
def targetValid (t : F64) : Bool := t.isFinite && t.isPositive

/-- What REFRESH stores for a measurement (R81): a finite value ≥ 0, with −0.0 as +0.0; anything else as +0.0. -/
def sanitize : MeasAnswer → F64
  | .unavailable => F64.zero
  | .value v => if v.isFinite && v.isPositive then v else F64.zero

end Machine

/-- The commands a program line presents, each with its operand; a literal spells the nearest binary64 value (R61), and
START is REFRESH followed by SELPROG (R62). -/
def ProgramLine.commands : ProgramLine → List (Word × F64)
  | .init => [(0x00000001#32, 0#64)]
  | .refresh => [(0x00000002#32, 0#64)]
  | .selprog target => [(0x00000003#32, F64.ofRat target)]
  | .stop => [(0x00000004#32, 0#64)]
  | .word cmd => [(cmd, 0#64)]
  | .start target => [(0x00000002#32, 0#64), (0x00000003#32, F64.ofRat target)]

end Sys2Proof
end

