-- ==== Sys2Proof/Machine/Ops.lean ====
section
/-!
DEFINITION. The shared operations of the micro-steps (spec 00_scope.md R12): the draws, the two register accesses, the wait,
the park request, moving to a label, ending a command (`finish`, also the way an error is raised: R126, R131), and the
acceptance of a command (R25, R56, R59).
-/

namespace Sys2Proof.Machine

/-! ## Draws (R35): the answer, and the environment once the answer is taken -/

/-- A free probe answer: a page-aligned base, or inconclusive (R35, R43). -/
def freeProbeAnswer (n : Nat) : ProbeAnswer :=
  match Config.freeProbePage n with
  | some page => .known (page ++ 0#12)
  | none => .inconclusive

def Env.probeAnswer (e : Env) : ProbeAnswer := e.probe.headD (freeProbeAnswer e.drawn)
def Env.takeProbe (e : Env) : Env := { e with probe := e.probe.tail, drawn := e.drawn + 1 }

def Env.mapAnswer (e : Env) : MapAnswer := e.map.headD (Config.freeMap e.drawn)
def Env.takeMap (e : Env) : Env := { e with map := e.map.tail, drawn := e.drawn + 1 }

def Env.measAnswer (e : Env) : MeasAnswer := e.meas.headD (Config.freeMeas e.drawn)
def Env.takeMeas (e : Env) : Env := { e with meas := e.meas.tail, drawn := e.drawn + 1 }

def Env.busyMove (e : Env) : Bool := e.busy.headD (Config.freeBusyMove e.drawn)
def Env.takeBusy (e : Env) : Env := { e with busy := e.busy.tail, drawn := e.drawn + 1 }

def Env.readBits (e : Env) : Word := e.read.headD (Config.freeReadBits e.drawn)
def Env.takeRead (e : Env) : Env := { e with read := e.read.tail, drawn := e.drawn + 1 }

/-- The next `n` measurement answers, in order (R80). -/
def Env.measAnswers : Nat → Env → List MeasAnswer
  | 0, _ => []
  | n + 1, e => e.measAnswer :: Env.measAnswers n e.takeMeas

/-- The environment once `n` measurement answers are taken. -/
def Env.takeMeasN : Nat → Env → Env
  | 0, e => e
  | n + 1, e => Env.takeMeasN n e.takeMeas

/-- Whether a base is a multiple of the page size (R43). -/
def baseAligned (base : Word) : Bool := base.toNat % Config.pageSize == 0

/-- Whether the answer given for the next probe is a misaligned base. Free answers are aligned, so only a given one counts. -/
def Env.probeMisaligned (e : Env) : Bool :=
  match e.probe.head? with
  | some (.known base) => !baseAligned base
  | _ => false

/-- Whether a command is presented by a caller that does not wait for the engine to be idle (R56). -/
def Env.presentsNow (e : Env) : Bool :=
  match e.caller.head? with
  | some (.present _ _ waits) => !waits
  | _ => false

/-! ## Register addresses (R44), all sums modulo 2^32 -/

/-- The byte offset of a word offset: a multiple of 4 (R43). -/
def byteOffset (words : WordOffset) : Word := words ++ 0#2

def State.cmBase (s : State) : Word := s.eng.periphBase + byteOffset s.cfg.cmBlockOffset
def State.ctlAddr (s : State) : Word := s.cmBase + byteOffset s.cfg.ctlOffset
def State.divAddr (s : State) : Word := s.cmBase + byteOffset s.cfg.divOffset

/-- The base of the GPIO block, which INIT maps and the engine never accesses (R54). -/
def State.gpioBase (s : State) : Word := s.eng.periphBase + byteOffset s.cfg.gpioBlockOffset

def State.regAddr (s : State) : BusReg → Word
  | .ctl => s.ctlAddr
  | .div => s.divAddr

/-! ## Primitives of the micro-steps (R12) -/

/-- Record what the engine did at its interfaces. -/
def State.record (s : State) (e : Event) : State := { s with trace := s.trace ++ [e] }

/-- `phase <- p`. -/
def State.goto (s : State) (p : Phase) : State := { s with eng := { s.eng with phase := p } }

/-- MemWrite(addr, 4, w) to a register (R41): complete at the device when the micro-step ends (R48). -/
def State.memWrite (s : State) (reg : BusReg) (w : Word) : State :=
  ({ s with dev := s.dev.writeReg reg w }).record (.write (s.regAddr reg) w)

/-- The value of MemRead(addr, 4) of a register (R41). -/
def State.memReadValue (s : State) (reg : BusReg) : Word := s.dev.readReg reg s.env.readBits

/-- The state after MemRead(addr, 4): no side effect at the device (R46). -/
def State.memRead (s : State) (reg : BusReg) : State :=
  ({ s with env := s.env.takeRead }).record (.read (s.regAddr reg) (s.memReadValue reg))

/-- Wait(t) (R157): a lower bound, no time measured. -/
def State.wait (s : State) (t : Nat) : State := s.record (.wait t)

/-- ParkPin() (R118): synchronous, the pin is a plain input when the micro-step ends. -/
def State.parkPin (s : State) : State := ({ s with dev := { s.dev with pin := .input } }).record .park

/-- `s.status <- st; respond(...)`: the command ends with its status, the response is presented, and the sequencer is idle
(R25, R26). With an error status this is `raise` (R126, R131): nothing else is saved or changed. -/
def State.finish (s : State) (st : Status) : State :=
  let eng := { s.eng with status := st, phase := .idle }
  ({ s with eng := eng }).record eng.response

/-- The clock generator's step, taken after each step of the engine (R8, R33, assumption 5). -/
def State.generatorMove (s : State) : State :=
  { s with
    dev := if s.env.busyMove then { s.dev with ctl := s.dev.ctl.moveBusy } else s.dev,
    env := s.env.takeBusy }

/-- The step of the engine followed by the generator's. -/
def thenGenerator : Host.Outcome State Fault Refusal → Host.Outcome State Fault Refusal
  | .next s => .next s.generatorMove
  | .fault f => .fault f
  | .refused r => .refused r

/-! ## Acceptance (R25, R56, R59) -/

/-- The label of the micro-step that runs an instruction: a command's first label (R25); P1, P3 and S2 for the register
words (R72). -/
def labelOf : Instr → Phase
  | .init => .i1
  | .refresh => .f1
  | .selprog _ => .p0
  | .stop => .t0
  | .wrDiv _ _ => .p1
  | .wrCtlEnable _ => .p3
  | .wrCtlDisable _ _ _ => .s2

/-- Enter a command's first label: stopTimeout is cleared (R25) and the operand TGT is held for it (R58). -/
def State.enter (s : State) (i : Instr) (tgt : F64) : State :=
  { s with eng := { s.eng.clearStopTimeout with phase := labelOf i, tgtIn := tgt } }

/-- An illegal command word (R59, R132): only `status` and `stopTimeout` change, and the engine responds at once. -/
def State.illegalCommand (s : State) : State :=
  ({ s with eng := s.eng.clearStopTimeout }).finish .illegalCommand

/-- Acceptance of a command word with its operand. -/
def State.accept (s : State) (cmd : Word) (tgt : F64) : State :=
  match decode (.command cmd tgt) with
  | .ok i => s.enter i tgt
  | .error _ => s.illegalCommand

end Sys2Proof.Machine
end

