-- ==== Sys2Proof/Machine/InitRefresh.lean ====
section
/-!
DEFINITION. INIT and REFRESH (spec 40_initialize_refresh.md R76 to R82): the micro-steps I1 and F1.
-/

namespace Sys2Proof.Machine

/-- I1 once the probe answer meets R43 (R77). -/
def initProbe (s : State) : State :=
  let probed := { s with env := s.env.takeProbe }
  match s.env.probeAnswer with
  | .inconclusive => probed.finish .unsupportedPlatform
  | .known base =>
    let asked := { probed with env := probed.env.takeMap }
    match probed.env.mapAnswer with
    | .fail => asked.finish .hardwareUnavailable
    | .ok => ({ asked with eng := { asked.eng with periphBase := base, init := true } }).finish .ok

/-- INIT (R77, R78). A misaligned base is refused as soon as it is answered (R43, R137). -/
def execInit (s : State) : Host.Outcome State Fault Refusal :=
  if s.eng.init then .next (s.finish .ok)
  else if s.env.probeMisaligned then .refused .probeBaseMisaligned
  else .next (initProbe s)

/-- REFRESH (R80): every source is measured, in index order, whether INIT has run or not (R79). -/
def execRefresh (s : State) : Host.Outcome State Fault Refusal :=
  let n := s.cfg.sources.length
  .next (({ s with
    eng := { s.eng with freq := (Env.measAnswers n s.env).map sanitize },
    env := Env.takeMeasN n s.env }).finish .ok)

end Sys2Proof.Machine
end

