-- ==== Sys2Proof/Machine/Ratio.lean ====
section
/-!
DEFINITION. EvalCandidate: the ratio computation for one candidate source (spec 41_ratio_computation.md R85 to R96).
-/

namespace Sys2Proof.Machine

/-- What EvalCandidate returns with ACCEPTED (R87). `error` is the value the selection compares: the binary64 error under
BINARY64, the exact one under EXACT (R85); `actualHz` and `errHz` are the values the result registers receive. -/
structure Evaluation where
  division : ℚ
  n        : Nat
  divI     : Nat
  divF     : Nat
  actualHz : F64
  errHz    : F64
  error    : ℚ
  deriving DecidableEq, Repr

/-- The result of EvalCandidate (R87). -/
inductive Verdict where
  | rejected (r : Reason)
  | accepted (e : Evaluation)
  deriving DecidableEq, Repr

/-- `r.code` (R99). -/
def Verdict.reason : Verdict → Reason
  | .rejected r => r
  | .accepted _ => .accepted

/-- "division": f / t. Under BINARY64 rounded, where an overflow to +∞ is none (R93); under EXACT the quotient itself. -/
def division (mode : Numerics) (f t : F64) : Option ℚ :=
  match mode with
  | .exact => some (f.toRat / t.toRat)
  | .binary64 =>
    let d := F64.ofRat (f.toRat / t.toRat)
    if d.isFinite then some d.toRat else none

/-- N = iPart × 1024 + roundHalfUp(fr × 1024) (R87). -/
def fixedPoint (d : ℚ) : Nat :=
  let iPart := ⌊d⌋₊
  let fr := d - iPart
  iPart * Config.fracScale + roundHalfUp (fr * Config.fracScale)

/-- divI + divF / 1024 (R87); exact in either setting (R88). -/
def ratioOf (divI divF : Nat) : ℚ := divI + divF / Config.fracScale

/-- The values of an accepted candidate (R87, R90). The quotient `f / ratio` and the difference `t − actual` are the only
operations left to round (R88). -/
def evaluate (mode : Numerics) (f t : F64) (d : ℚ) : Evaluation :=
  let n := fixedPoint d
  let divI := n >>> 10
  let divF := n &&& 0x3FF
  let quotient := f.toRat / ratioOf divI divF
  match mode with
  | .binary64 =>
    let actual := F64.ofRat quotient
    let err := F64.ofRat |t.toRat - actual.toRat|
    ⟨d, n, divI, divF, actual, err, err.toRat⟩
  | .exact =>
    let err := |t.toRat - quotient|
    ⟨d, n, divI, divF, F64.ofRat quotient, F64.ofRat err, err⟩

/-- EvalCandidate (R87), its tests in the order of R95. It reads the source's `enabled`, its frequency and the target, and
nothing else (R96). A frequency of +∞, which no REFRESH stores (R81), has a division above every bound. -/
def evalCandidate (mode : Numerics) (enabled : Bool) (f t : F64) : Verdict :=
  if !enabled then .rejected .disabled
  else if !f.isPositive then .rejected .noFrequency
  else if !f.isFinite then .rejected .ratioAboveMax
  else match division mode f t with
    | none => .rejected .ratioAboveMax
    | some d =>
      if d < Config.ratioMin then .rejected .ratioBelowMin
      else if Config.ratioMax < d then .rejected .ratioAboveMax
      else .accepted (evaluate mode f t d)

end Sys2Proof.Machine
end

