-- ==== Sys2Proof/Machine/Select.lean ====
section
/-!
DEFINITION. Select: the choice among the accepted candidates (spec 42_selection.md R98 to R106).
-/

namespace Sys2Proof.Machine

/-- An accepted candidate: its index and id in SOURCES, its measured frequency and its evaluation (R99). -/
structure Candidate where
  idx  : Nat
  src  : BitVec 4
  freq : F64
  eval : Evaluation
  deriving DecidableEq, Repr

/-- SOURCES with the frequency of each source; a source with no entry in `freq` counts as unmeasured. -/
def withFreq : List Source → List F64 → List (Source × F64)
  | [], _ => []
  | src :: srcs, [] => (src, F64.zero) :: withFreq srcs []
  | src :: srcs, f :: fs => (src, f) :: withFreq srcs fs

/-- Whether a later candidate replaces the best so far: a smaller error, or an equal one and a higher frequency (R99). -/
def Candidate.beats (c best : Candidate) : Bool :=
  decide (c.eval.error < best.eval.error)
    || (decide (c.eval.error = best.eval.error) && F64.lt best.freq c.freq)

/-- One turn of the loop (R99). -/
def keepBest (best : Option Candidate) (c : Candidate) : Option Candidate :=
  match best with
  | none => some c
  | some b => if c.beats b then some c else some b

/-- EvalCandidate of one row of the table (R87). -/
def verdictOf (mode : Numerics) (t : F64) (row : Source × F64) : Verdict :=
  evalCandidate mode row.1.enabled row.2 t

/-- The loop from index `i` on (R99). -/
def selectFrom (mode : Numerics) (t : F64) : Nat → Option Candidate → List (Source × F64) → Option Candidate
  | _, best, [] => best
  | i, best, row :: rest =>
    match verdictOf mode t row with
    | .accepted e => selectFrom mode t (i + 1) (keepBest best ⟨i, row.1.id, row.2, e⟩) rest
    | .rejected _ => selectFrom mode t (i + 1) best rest

/-- Select(t): the winner, or none (R99). -/
def select (mode : Numerics) (t : F64) (rows : List (Source × F64)) : Option Candidate :=
  selectFrom mode t 0 none rows

/-- Select(t): the reason of every source, in index order (R99, R106). -/
def reasonsOf (mode : Numerics) (t : F64) (rows : List (Source × F64)) : List Reason :=
  rows.map fun row => (verdictOf mode t row).reason

/-- What SELPROG holds of the winner for P1, P3 and P4 (R108). -/
def Candidate.selection (c : Candidate) : Selection :=
  ⟨c.idx, c.src, BitVec.ofNat 12 c.eval.divI, BitVec.ofNat 10 c.eval.divF, c.eval.actualHz, c.eval.errHz⟩

end Sys2Proof.Machine
end

