-- ==== Sys2Proof/Machine/ProgramStop.lean ====
section
/-!
DEFINITION. SELPROG and STOP (spec 43_program_stop.md R107 to R125): their first micro-steps P0 and T0, the register-word
micro-steps S2, P1 and P3, and the micro-steps that carry no word, S1, S3, S4, P2, P4 and T1.
-/

namespace Sys2Proof.Machine

/-! ## SELPROG -/

/-- Cleared result registers (R102). -/
def Engine.clearResults (e : Engine) : Engine := { e with resValid := false, res := Selection.zero }

/-- The table Select reads (R99). -/
def State.rows (s : State) : List (Source × F64) := withFreq s.cfg.sources s.eng.freq

/-- P0 after its guards (R108): latch the target, select, and either fail (R102) or enter the stop sequence. -/
def selprogSelect (t : F64) (s : State) : State :=
  let eng := { s.eng with target := t, reason := reasonsOf s.cfg.numerics t s.rows }
  match select s.cfg.numerics t s.rows with
  | none => ({ s with eng := eng.clearResults }).finish .noSuitableSource
  | some best => ({ s with eng := { eng with sel := best.selection, stopFor := .selprog } }).goto .s1

/-- SELPROG (R108): its micro-step P0. -/
def execSelprog (tgt : F64) (s : State) : Host.Outcome State Fault Refusal :=
  if !s.eng.init then .next (s.finish .notInitialized)
  else if !targetValid tgt then .next (s.finish .invalidTarget)
  else .next (selprogSelect tgt s)

/-- WR_DIV (R110): the micro-step P1. -/
def execWrDiv (divI : BitVec 12) (divF : BitVec 10) (s : State) : Host.Outcome State Fault Refusal :=
  .next ((s.memWrite .div (divWord divI divF)).goto .p2)

/-- P2 (R111). -/
def settle (s : State) : State := (s.wait s.cfg.settleTime).goto .p3

/-- WR_CTL_ENABLE (R111): the micro-step P3. -/
def execWrCtlEnable (src : BitVec 4) (s : State) : Host.Outcome State Fault Refusal :=
  .next ((s.memWrite .ctl (enableWord src)).goto .p4)

/-- P4 (R112): the result registers take the selection, and SELPROG responds OK. -/
def recordResult (s : State) : State :=
  ({ s with eng := { s.eng with resValid := true, res := s.eng.sel } }).finish .ok

/-! ## The stop sequence (R113) -/

/-- S1 (R114). -/
def readCtl (s : State) : State :=
  let r := s.memReadValue .ctl
  let after := s.memRead .ctl
  ({ after with eng := { after.eng with ctlRead := r } }).goto .s2

/-- WR_CTL_DISABLE (R114): the micro-step S2. -/
def execWrCtlDisable (src : BitVec 4) (flip : Bool) (mash : BitVec 2) (s : State) : Host.Outcome State Fault Refusal :=
  let after := s.memWrite .ctl (disableWord (keptFields src flip mash))
  .next (({ after with eng := { after.eng with pollCount := 0 } }).goto .s3)

/-- S3 (R116, R117): one poll of BUSY. -/
def poll (s : State) : State :=
  let r := s.memReadValue .ctl
  let count := s.eng.pollCount + 1
  let after := s.memRead .ctl
  let counted := { after with eng := { after.eng with pollCount := count } }
  if ctlBusyField r = false then counted.goto .s4
  else if count = s.cfg.pollMax then
    ({ counted with eng := { counted.eng with stopTimeout := true } }).goto .s4
  else (counted.wait s.cfg.pollInterval).goto .s3

/-- S4 (R118): park, and back to the caller of the stop sequence. -/
def park (s : State) : State :=
  s.parkPin.goto (match s.eng.stopFor with
    | .selprog => .p1
    | .stop => .t1)

/-! ## STOP -/

/-- STOP (R119): its micro-step T0. -/
def execStop (s : State) : Host.Outcome State Fault Refusal :=
  if !s.eng.init then .next (s.finish .notInitialized)
  else .next (({ s with eng := { s.eng with stopFor := .stop } }).goto .s1)

/-- T1 (R119): the results lose their validity and keep their values. -/
def stopDone (s : State) : State :=
  ({ s with eng := { s.eng with resValid := false } }).finish .ok

end Sys2Proof.Machine
end

