-- ==== Sys2Proof/Machine/Dispatch.lean ====
section
/-!
DEFINITION. One arm per instruction (spec 30_encoding.md R72).
-/

namespace Sys2Proof.Machine

def exec (i : Instr) (s : State) : Host.Outcome State Fault Refusal :=
  match i with
  | .init => Sys2Proof.Machine.execInit s
  | .refresh => Sys2Proof.Machine.execRefresh s
  | .selprog tgt => Sys2Proof.Machine.execSelprog tgt s
  | .stop => Sys2Proof.Machine.execStop s
  | .wrDiv divI divF => Sys2Proof.Machine.execWrDiv divI divF s
  | .wrCtlEnable src => Sys2Proof.Machine.execWrCtlEnable src s
  | .wrCtlDisable src flip mash => Sys2Proof.Machine.execWrCtlDisable src flip mash s

end Sys2Proof.Machine
end

