-- ==== Sys2Proof/Machine/Sequencer.lean ====
section
/-!
DEFINITION. What the machine does next (spec 10_state.md R25): a label whose micro-step is one of the seven instructions
gives the transfer that carries it (R72); every other label gives a micro-step with no word; IDLE takes the next action of
the outside world (30_encoding.md R56).
-/

namespace Sys2Proof.Machine

/-- The micro-steps that carry no word, and the engine's idling. -/
inductive Micro where
  | idle
  | readCtl
  | poll
  | park
  | settle
  | recordResult
  | stopDone
  deriving DecidableEq, Repr

/-- The machine's next action. -/
inductive Action where
  | transfer (tr : Transfer)
  | micro (m : Micro)
  deriving DecidableEq, Repr

/-- The next action, by label (R25, R72). The command words are those of R57; the register words are those of R67, R69 and
R70, made from the selection held since P0 and from the value read at S1. -/
def State.nextAction (s : State) : Action :=
  match s.eng.phase with
  | .idle => .micro .idle
  | .i1 => .transfer (.command 0x00000001#32 s.eng.tgtIn)
  | .f1 => .transfer (.command 0x00000002#32 s.eng.tgtIn)
  | .p0 => .transfer (.command 0x00000003#32 s.eng.tgtIn)
  | .t0 => .transfer (.command 0x00000004#32 s.eng.tgtIn)
  | .s1 => .micro .readCtl
  | .s2 => .transfer (.write .ctl (disableWord s.eng.ctlRead))
  | .s3 => .micro .poll
  | .s4 => .micro .park
  | .p1 => .transfer (.write .div (divWord s.eng.sel.divI s.eng.sel.divF))
  | .p2 => .micro .settle
  | .p3 => .transfer (.write .ctl (enableWord s.eng.sel.src))
  | .p4 => .micro .recordResult
  | .t1 => .micro .stopDone

/-- IDLE: a presented command is accepted (R25, R56); carrier_gpio_controller may set the pin (R34); with nothing presented
the engine waits (R152). -/
def idleStep (s : State) : State :=
  match s.env.caller with
  | [] => s
  | .setPin f :: rest => { s with dev := { s.dev with pin := f }, env := { s.env with caller := rest } }
  | .present cmd tgt _ :: rest => ({ s with env := { s.env with caller := rest } }).accept cmd tgt

/-- The micro-steps that carry no word. -/
def runMicro (m : Micro) (s : State) : State :=
  match m with
  | .idle => idleStep s
  | .readCtl => readCtl s
  | .poll => poll s
  | .park => park s
  | .settle => settle s
  | .recordResult => recordResult s
  | .stopDone => stopDone s

/-- A command is presented while phase ≠ IDLE (R56, R137). -/
def State.overrun (s : State) : Bool := s.eng.phase != .idle && s.env.presentsNow

/-- The state in which the micro-step that runs `i` comes next: a command as just accepted (`State.enter`), with its
operand held; a register word with its fields held where S2, P1 or P3 takes them from; and no command presented by a caller
that does not wait. -/
def State.placeInstr (s : State) (i : Instr) : State :=
  let quiet := { s with env := { s.env with caller := if s.env.presentsNow then [] else s.env.caller } }
  match i with
  | .init => quiet.enter i F64.zero
  | .refresh => quiet.enter i F64.zero
  | .selprog tgt => quiet.enter i tgt
  | .stop => quiet.enter i F64.zero
  | .wrDiv divI divF =>
    { quiet with eng := { quiet.eng with phase := labelOf i, sel := { quiet.eng.sel with divI := divI, divF := divF } } }
  | .wrCtlEnable src =>
    { quiet with eng := { quiet.eng with phase := labelOf i, sel := { quiet.eng.sel with src := src } } }
  | .wrCtlDisable src flip mash =>
    { quiet with eng := { quiet.eng with phase := labelOf i, ctlRead := keptFields src flip mash } }

/-- The state in which a word that spells no instruction is presented to the idle engine: the next step accepts it as an
illegal command (R59). -/
def State.placeWord (s : State) (cmd : Word) (tgt : F64) : State :=
  { s with
    eng := { s.eng with phase := .idle },
    env := { s.env with caller := .present cmd tgt true :: s.env.caller } }

end Sys2Proof.Machine
end

