-- ==== Sys2Proof/Machine/Step.lean ====
section
/-!
DEFINITION. One step of the machine: one micro-step of the engine (spec 10_state.md R25), then one step of the clock
generator (R33). A command presented out of turn is a fault (R56, R137).
-/

namespace Sys2Proof.Machine

/-- One step: an instruction is decoded from the transfer that carries it and executed. -/
def step (s : State) : Host.Outcome State Fault Refusal :=
  if s.overrun then .fault .overrun
  else match s.nextAction with
    | .transfer tr =>
      match decode tr with
      | .ok i => thenGenerator (exec i s)
      | .error _ => .refused .undecodable
    | .micro m => thenGenerator (.next (runMicro m s))

/-- `s` with the instruction of a table word as the one the next step runs (assumption 10). -/
def State.withFetchWord (s : State) (nbits w : Nat) : State :=
  match decodeTableWord nbits w with
  | some i => s.placeInstr i
  | none => s.placeWord (BitVec.ofNat 32 w) (BitVec.ofNat 64 (w / 2 ^ 32))

end Sys2Proof.Machine
end

