-- ==== Sys2Proof/Safety.lean ====
section
/-!
DEFINITION. What the claims speak in: a run of several steps; the events a step adds; device states equal but for BUSY; and
the invariant of the machine, whose clauses say what counts as a safe run (spec 10_state.md R18 to R24; 43_program_stop.md
R114, R120 to R122; 70_reset_and_hazards.md R154 to R156).
-/

namespace Sys2Proof.Machine

/-- `k` steps, stopping at the first fault or refusal. -/
def run : Nat → State → Host.Outcome State Fault Refusal
  | 0, s => .next s
  | k + 1, s =>
    match step s with
    | .next t => run k t
    | .fault f => .fault f
    | .refused r => .refused r

/-- A register access (R45). -/
def Event.isAccess : Event → Bool
  | .read _ _ => true
  | .write _ _ => true
  | _ => false

def Event.isRead : Event → Bool
  | .read _ _ => true
  | _ => false

def Event.isWrite : Event → Bool
  | .write _ _ => true
  | _ => false

def Event.isWait : Event → Bool
  | .wait _ => true
  | _ => false

def Event.isPark : Event → Bool
  | .park => true
  | _ => false

def Event.isResponse : Event → Bool
  | .respond _ _ _ => true
  | _ => false

/-- Two device states that differ at most in CTL.BUSY, the one bit the generator changes (R33). -/
def Device.sameButBusy (d d' : Device) : Prop :=
  d'.div = d.div ∧ d'.pin = d.pin ∧ d'.ctl = { d.ctl with busy := d'.ctl.busy }

/-- The range of a divider that is programmed (R67, R91): 2 ≤ DIVI + DIVF/1024 ≤ 4095. -/
def dividerOk (divI : BitVec 12) (divF : BitVec 10) : Prop :=
  2 ≤ divI.toNat ∧ (divI.toNat = 4095 → divF = 0#10)

/-- A selection of this table: an enabled source under its own id (R20, R104), with a divider in range (R91). -/
def selectionOk (cfg : Config) (r : Selection) : Prop :=
  (∃ src, cfg.sources[r.idx]? = some src ∧ src.id = r.src ∧ src.enabled = true) ∧ dividerOk r.divI r.divF

/-- The candidate that R100, R101 and R103 name: it is accepted (so enabled, R104), no accepted candidate has a smaller error,
among those of equal error none has a higher frequency, and among those equal in both none has a lower index. -/
def Wins (mode : Numerics) (t : F64) (rows : List (Source × F64)) (c : Candidate) : Prop :=
  (∃ row : Source × F64, rows[c.idx]? = some row ∧ row.1.enabled = true ∧ row.1.id = c.src ∧ row.2 = c.freq
      ∧ verdictOf mode t row = .accepted c.eval)
    ∧ ∀ (j : ℕ) (row : Source × F64) (e : Evaluation), rows[j]? = some row → verdictOf mode t row = .accepted e →
      c.eval.error < e.error
        ∨ (c.eval.error = e.error
            ∧ (row.2.toRat < c.freq.toRat ∨ (row.2.toRat = c.freq.toRat ∧ c.idx ≤ j)))

/-- Some source is accepted (R102). -/
def SomeAccepted (mode : Numerics) (t : F64) (rows : List (Source × F64)) : Prop :=
  ∃ row ∈ rows, ∃ e, verdictOf mode t row = .accepted e

/-- The labels that follow a passed INIT guard (R108, R119). -/
def Phase.mapped : Phase → Bool
  | .s1 | .s2 | .s3 | .s4 | .p1 | .p2 | .p3 | .p4 | .t1 => true
  | _ => false

/-- The labels at which a SELPROG holds its selection (R108, R113). -/
def Phase.holdsSelection (p : Phase) (caller : StopCaller) : Bool :=
  match p with
  | .s1 | .s2 | .s3 | .s4 => caller = .selprog
  | .p1 | .p2 | .p3 | .p4 => true
  | _ => false

/-- The labels between the disable write and the enable write. -/
def Phase.disabled : Phase → Bool
  | .s3 | .s4 | .p1 | .p2 | .p3 | .t1 => true
  | _ => false

/-- The labels between the end of the poll and the enable write. -/
def Phase.polled : Phase → Bool
  | .s4 | .p1 | .p2 | .p3 | .t1 => true
  | _ => false

/-- The labels between the park request and the end of the command. -/
def Phase.parked : Phase → Bool
  | .p1 | .p2 | .p3 | .p4 | .t1 => true
  | _ => false

/-- The labels between the divider write and the end of SELPROG. -/
def Phase.programmed : Phase → Bool
  | .p2 | .p3 | .p4 => true
  | _ => false

/-- The invariant of the machine. -/
structure State.Inv (s : State) : Prop where
  /-- One frequency and one reason per source (R18, R19). -/
  freqLength : s.eng.freq.length = s.cfg.sources.length
  reasonLength : s.eng.reason.length = s.cfg.sources.length
  /-- Every stored frequency is finite and ≥ +0.0 (R18). -/
  freqUsable : ∀ f ∈ s.eng.freq, f.isFinite = true ∧ f.sign = false
  /-- The window's base is a multiple of the page size (R43). -/
  baseAligned : s.eng.periphBase.toNat % 4096 = 0
  /-- No register is accessed before INIT (R108, R119). -/
  mapped : s.eng.phase.mapped = true → s.eng.init = true
  /-- pollCount ≤ POLL_MAX, and a poll is left to make at S3 (R24, R116). -/
  pollBound : s.eng.pollCount ≤ (s.cfg.pollMax : ℕ)
  pollLeft : s.eng.phase = .s3 → s.eng.pollCount < (s.cfg.pollMax : ℕ)
  /-- A valid result is a selection of this table (R20). -/
  resultOk : s.eng.resValid = true → selectionOk s.cfg s.eng.res
  /-- So is the selection held between P0 and P4 (R108). -/
  heldOk : s.eng.phase.holdsSelection s.eng.stopFor = true → selectionOk s.cfg s.eng.sel
  /-- The fields that S2 writes back are those that CTL holds (R114). -/
  readCurrent : s.eng.phase = .s2 →
    ctlSrcField s.eng.ctlRead = s.dev.ctl.src ∧ ctlFlipField s.eng.ctlRead = s.dev.ctl.flip
      ∧ ctlMashField s.eng.ctlRead = s.dev.ctl.mash
  /-- The generator is disabled from S2 to P3 or T1 (R114, R155). -/
  disabled : s.eng.phase.disabled = true → s.dev.ctl.enab = false ∧ s.dev.ctl.kill = false
  /-- And not busy once the poll has ended, unless it timed out (R117, R120, R155). -/
  quiet : s.eng.phase.polled = true → s.eng.stopTimeout = false → s.dev.ctl.busy = false
  /-- The pin is parked before the divider and the source change (R156), and stays so until the command ends, since the outside
  world changes it only at IDLE (assumption 13, not R156). -/
  parked : s.eng.phase.parked = true → s.dev.pin = .input
  /-- DIV holds the selection's divider from P1 on (R110, R154). -/
  programmed : s.eng.phase.programmed = true → s.dev.div = ⟨s.eng.sel.divI, s.eng.sel.divF⟩
  /-- CTL holds the selection's source, enabled, from P3 on (R111). -/
  enabled : s.eng.phase = .p4 →
    s.dev.ctl.src = s.eng.sel.src ∧ s.dev.ctl.enab = true ∧ s.dev.ctl.kill = false
      ∧ s.dev.ctl.flip = false ∧ s.dev.ctl.mash = 1#2

end Sys2Proof.Machine
end

