-- ==== Sys2Proof/Certificates/Slice0/Obligations.lean ====
section
/-!
DEFINITION. The statements for the provers. Each docstring names the rules of spec/ it formalises.
-/

open Sys2Proof Sys2Proof.Machine

/-! ## Reset and the invariant -/

/-- R38, R150, R151: every piece of engine state at its reset value, for any parameters, and any device state left as it is. -/
def Obligations.ResetGivesEngineItsValuesAndKeepsDevice : Prop :=
  (∀ (cfg : Config) (dev : Device),
    let s := State.resetWith cfg dev
    s.cfg = cfg ∧ s.dev = dev ∧ s.eng.phase = .idle ∧ s.eng.init = false ∧ s.eng.periphBase = 0#32
      ∧ s.eng.freq.length = cfg.sources.length ∧ (∀ f ∈ s.eng.freq, f = 0#64)
      ∧ s.eng.reason.length = cfg.sources.length ∧ (∀ r ∈ s.eng.reason, r.code = 7#3)
      ∧ s.eng.resValid = false ∧ s.eng.res.idx = 0 ∧ s.eng.res.src = 0#4 ∧ s.eng.res.divI = 0#12
      ∧ s.eng.res.divF = 0#10 ∧ s.eng.res.actualHz = 0#64 ∧ s.eng.res.errHz = 0#64 ∧ s.eng.target = 0#64
      ∧ s.eng.status.code = 0#4 ∧ s.eng.stopTimeout = false ∧ s.eng.pollCount = 0
      ∧ s.eng.resp = 0#32 ∧ s.eng.act = 0#64)
    ∧ ∃ cfg dev, State.reset = State.resetWith cfg dev

/-- The invariant holds right after reset, whatever the parameters and the device state (R38, R151). -/
def Obligations.InvariantHoldsAtReset : Prop :=
  ∀ (cfg : Config) (dev : Device), (State.resetWith cfg dev).Inv

/-- Every step keeps the invariant: sizes and usability of the tables, no access before INIT, the poll bound, results and
held selections of this table with a divider in range, disabled, quiet and parked before reprogramming (R18, R19, R24, R91,
R114, R155, R156). That nothing but the engine changes the pin from the park to the command's end is the model's choice
(assumption 13), and with it the clause `parked`. -/
def Obligations.StepKeepsInvariant : Prop :=
  ∀ s t : State, s.Inv → step s = .next t → t.Inv

/-! ## Decoding -/

/-- Decoding what is encoded gives every instruction back, with every operand (R57, R58, R67, R69, R70, R71). -/
def Obligations.DecodeOfEncodeIsIdentity : Prop :=
  ∀ i : Instr, decode (encode i) = .ok i

/-- A word has one meaning on its interface: encoding what was decoded gives the register word back, and the command word
(with TGT where the command reads it) (R57, R58, R71). -/
def Obligations.EncodeOfDecodeIsIdentity : Prop :=
  (∀ reg w i, decode (.write reg w) = .ok i → encode i = .write reg w)
    ∧ ∀ cmd tgt i, decode (.command cmd tgt) = .ok i →
      encode i = .command cmd (match i with | .selprog t => t | _ => 0#64)

/-- R57, R59: a command word selects an instruction exactly when it is 1, 2, 3 or 4. -/
def Obligations.CommandWordsAreTheFourOpcodes : Prop :=
  ∀ (cmd : Word) (tgt : F64),
    (cmd.toNat = 1 → decode (.command cmd tgt) = .ok .init)
      ∧ (cmd.toNat = 2 → decode (.command cmd tgt) = .ok .refresh)
      ∧ (cmd.toNat = 3 → decode (.command cmd tgt) = .ok (.selprog tgt))
      ∧ (cmd.toNat = 4 → decode (.command cmd tgt) = .ok .stop)
      ∧ (cmd.toNat = 0 ∨ 4 < cmd.toNat → decode (.command cmd tgt) = .error (.illegalCommand cmd))

/-- Words written out from the spec's tables decode to the instructions they stand for (R57, R67, R69, R70). -/
def Obligations.SampleWordsDecode : Prop :=
  decode (.command 0x00000001#32 0#64) = .ok .init
    ∧ decode (.command 0x00000003#32 0x40F2EBC000000000#64) = .ok (.selprog 0x40F2EBC000000000#64)
    ∧ decode (.write .div 0x5A0F72F8#32) = .ok (.wrDiv 247#12 760#10)
    ∧ decode (.write .ctl 0x5A000217#32) = .ok (.wrCtlEnable 7#4)
    ∧ decode (.write .ctl 0x5A000506#32) = .ok (.wrCtlDisable 6#4 true 2#2)

/-- The model's choice (assumptions 9 and 10): the state that stands for a table word's being next runs exactly the
instruction of that word. -/
def Obligations.PlacedWordIsRunNext : Prop :=
  ∀ (s : State) (nbits w : Nat) (i : Instr), decodeTableWord nbits w = some i →
    step (s.withFetchWord nbits w) = thenGenerator (exec i (s.withFetchWord nbits w))

/-! ## Steps -/

/-- A step runs the decoded instruction, then the generator makes its step (R25, R33, R72; one move of the generator after
each step is the model's choice, assumption 5). -/
def Obligations.StepRunsTheDecodedInstruction : Prop :=
  ∀ (s : State) (tr : Transfer) (i : Instr),
    s.overrun = false → s.nextAction = .transfer tr → decode tr = .ok i → step s = thenGenerator (exec i s)

/-- The labels whose micro-step is an instruction (R25, R72) run that instruction, with the operands held for it: TGT at P0,
the fields read at S1 at S2, the selection's at P1 and P3 (held in fields of the model's choice, assumption 7). -/
def Obligations.EachLabelRunsItsInstruction : Prop :=
  ∀ s : State, s.overrun = false →
    (s.eng.phase = .i1 → step s = thenGenerator (exec .init s))
      ∧ (s.eng.phase = .f1 → step s = thenGenerator (exec .refresh s))
      ∧ (s.eng.phase = .p0 → step s = thenGenerator (exec (.selprog s.eng.tgtIn) s))
      ∧ (s.eng.phase = .t0 → step s = thenGenerator (exec .stop s))
      ∧ (s.eng.phase = .s2 → step s = thenGenerator (exec (.wrCtlDisable (ctlSrcField s.eng.ctlRead)
          (ctlFlipField s.eng.ctlRead) (ctlMashField s.eng.ctlRead)) s))
      ∧ (s.eng.phase = .p1 → step s = thenGenerator (exec (.wrDiv s.eng.sel.divI s.eng.sel.divF) s))
      ∧ (s.eng.phase = .p3 → step s = thenGenerator (exec (.wrCtlEnable s.eng.sel.src) s))

/-- R25: acceptance of a legal command clears stopTimeout and enters the command's first label, and nothing else changes at
the engine, the pin or the generator's fields. (A step of its own, with the operand latched: assumptions 7 and 11.) -/
def Obligations.AcceptanceEntersFirstLabel : Prop :=
  ∀ (s : State) (cmd : Word) (tgt : F64) (waits : Bool) (rest : List CallerAct) (i : Instr),
    s.eng.phase = .idle → s.env.caller = .present cmd tgt waits :: rest → decode (.command cmd tgt) = .ok i →
    ∃ t, step s = .next t
      ∧ t.eng = { s.eng with stopTimeout := false, phase := labelOf i, tgtIn := tgt }
      ∧ s.dev.sameButBusy t.dev ∧ t.cfg = s.cfg ∧ t.trace = s.trace ∧ t.env.caller = rest

/-- R59, R132: an illegal command word changes only `status` and `stopTimeout`, makes no register access, and is answered at
once. -/
def Obligations.IllegalCommandChangesStatusOnly : Prop :=
  ∀ (s : State) (cmd : Word) (tgt : F64) (waits : Bool) (rest : List CallerAct),
    s.eng.phase = .idle → s.env.caller = .present cmd tgt waits :: rest →
    (cmd.toNat = 0 ∨ 4 < cmd.toNat) →
    ∃ t, step s = .next t
      ∧ t.eng = { s.eng with status := .illegalCommand, stopTimeout := false }
      ∧ s.dev.sameButBusy t.dev ∧ t.cfg = s.cfg ∧ t.env.caller = rest
      ∧ t.trace = s.trace ++ [t.eng.response]

/-- R34, R152: an idle engine with nothing presented waits, and a change of the pin by carrier_gpio_controller changes the pin
alone. (That it comes only at IDLE is the model's choice, assumption 13.) -/
def Obligations.IdleEngineWaits : Prop :=
  ∀ s : State, s.eng.phase = .idle →
    (s.env.caller = [] →
      ∃ t, step s = .next t ∧ t.eng = s.eng ∧ s.dev.sameButBusy t.dev ∧ t.cfg = s.cfg
        ∧ t.env.caller = [] ∧ t.trace = s.trace)
    ∧ ∀ (f : PinFunc) (rest : List CallerAct), s.env.caller = .setPin f :: rest →
      ∃ t, step s = .next t ∧ t.eng = s.eng ∧ t.dev.pin = f ∧ { s.dev with pin := f }.sameButBusy t.dev
        ∧ t.cfg = s.cfg ∧ t.env.caller = rest ∧ t.trace = s.trace

/-- R56, R137: a step faults exactly when a command is presented, by a caller that does not wait, while phase ≠ IDLE. (The
queue of the caller's actions is the model's choice, assumption 12.) -/
def Obligations.FaultIsExactlyOverrun : Prop :=
  ∀ (s : State) (f : Fault), step s = .fault f ↔
    s.eng.phase ≠ .idle ∧ ∃ cmd tgt, s.env.caller.head? = some (.present cmd tgt false)

/-- R43, R137: a step is refused exactly when INIT's probe is answered with a base that is no multiple of 4096; so every
other step goes on. (That no free answer is such a base is assumption 14.) -/
def Obligations.RefusalIsExactlyMisalignedProbe : Prop :=
  ∀ (s : State) (r : Refusal), step s = .refused r ↔
    r = .probeBaseMisaligned ∧ s.overrun = false ∧ s.eng.phase = .i1 ∧ s.eng.init = false
      ∧ ∃ base : Word, s.env.probe.head? = some (.known base) ∧ base.toNat % 4096 ≠ 0

/-! ## INIT and REFRESH -/

/-- R77, R78: INIT from its four starting points. Each ends the command with its response, accesses no register and changes
no engine register but those named. -/
def Obligations.InitFollowsProbeThenMap : Prop :=
  ∀ s : State,
    (s.eng.init = true →
      ∃ t, exec .init s = .next t ∧ t.eng = { s.eng with status := .ok, phase := .idle }
        ∧ t.env = s.env ∧ t.dev = s.dev ∧ t.cfg = s.cfg ∧ t.trace = s.trace ++ [t.eng.response])
    ∧ (s.eng.init = false → s.env.probeAnswer = .inconclusive →
      ∃ t, exec .init s = .next t ∧ t.eng = { s.eng with status := .unsupportedPlatform, phase := .idle }
        ∧ t.env = s.env.takeProbe ∧ t.dev = s.dev ∧ t.cfg = s.cfg ∧ t.trace = s.trace ++ [t.eng.response])
    ∧ (∀ base : Word, s.eng.init = false → s.env.probeAnswer = .known base → base.toNat % 4096 = 0 →
      (s.env.takeProbe.mapAnswer = .fail →
        ∃ t, exec .init s = .next t ∧ t.eng = { s.eng with status := .hardwareUnavailable, phase := .idle }
          ∧ t.env = s.env.takeProbe.takeMap ∧ t.dev = s.dev ∧ t.cfg = s.cfg
          ∧ t.trace = s.trace ++ [t.eng.response])
      ∧ (s.env.takeProbe.mapAnswer = .ok →
        ∃ t, exec .init s = .next t
          ∧ t.eng = { s.eng with init := true, periphBase := base, status := .ok, phase := .idle }
          ∧ t.env = s.env.takeProbe.takeMap ∧ t.dev = s.dev ∧ t.cfg = s.cfg
          ∧ t.trace = s.trace ++ [t.eng.response]))

/-- R43: INIT refuses a probe answer that is no multiple of 4096, given or free (a free answer never is one, assumption 14). -/
def Obligations.InitRefusesMisalignedBase : Prop :=
  ∀ (s : State) (base : Word), s.eng.init = false → s.env.probeAnswer = .known base → base.toNat % 4096 ≠ 0 →
    exec .init s = .refused .probeBaseMisaligned

/-- R80, R82: REFRESH stores the sanitized answer of every source, in index order, sets `status`, and changes nothing else,
whether `init` is true or false (R79). -/
def Obligations.RefreshStoresEverySource : Prop :=
  ∀ s : State, ∃ t, exec .refresh s = .next t
    ∧ t.eng = { s.eng with freq := t.eng.freq, status := .ok, phase := .idle }
    ∧ t.eng.freq.length = s.cfg.sources.length
    ∧ (∀ i a, i < s.cfg.sources.length → s.env.meas[i]? = some a → t.eng.freq[i]? = some (sanitize a))
    ∧ t.eng.freq = (Env.measAnswers s.cfg.sources.length s.env).map sanitize
    ∧ t.env = Env.takeMeasN s.cfg.sources.length s.env
    ∧ t.dev = s.dev ∧ t.cfg = s.cfg ∧ t.trace = s.trace ++ [t.eng.response]

/-- R81: what is stored for a measurement, by its value; it is always finite and not negative (R18). -/
def Obligations.SanitizeKeepsUsableValues : Prop :=
  sanitize .unavailable = 0#64
    ∧ (∀ v : F64, v.isFinite = true → 0 < v.toRat → sanitize (.value v) = v)
    ∧ (∀ v : F64, v.isFinite = true → v.toRat ≤ 0 → sanitize (.value v) = 0#64)
    ∧ (∀ v : F64, v.isFinite = false → sanitize (.value v) = 0#64)
    ∧ ∀ a, (sanitize a).isFinite = true ∧ (sanitize a).sign = false

/-! ## The ratio computation -/

/-- R85 (BINARY64): a rational number is rounded to a nearest binary64 value, to the even one of two, and overflows exactly
where IEEE 754 says. -/
def Obligations.RoundingIsToNearestEven : Prop :=
  ∀ x : ℚ,
    (∀ y : F64, (F64.ofRat x).isFinite = true → y.isFinite = true →
      |(F64.ofRat x).toRat - x| ≤ |y.toRat - x|
        ∧ (|(F64.ofRat x).toRat - x| = |y.toRat - x| → y.toRat ≠ (F64.ofRat x).toRat →
          (F64.ofRat x).frac % 2 = 0))
    ∧ ((F64.ofRat x).isFinite = false ↔ (2 : ℚ) ^ 1024 - 2 ^ 970 ≤ |x|)

/-- R13, R85: a finite binary64 value is the rounding of the number it denotes (−0.0, which denotes 0, aside). -/
def Obligations.RoundingFixesBinary64Values : Prop :=
  ∀ x : F64, x.isFinite = true → x ≠ 0x8000000000000000#64 → F64.ofRat x.toRat = x

/-- R14, R58: the comparison of binary64 patterns is false on NaN and else that of the values they denote. -/
def Obligations.ComparisonIsIeeeOrdered : Prop :=
  ∀ x y : F64,
    (x.isNaN = true ∨ y.isNaN = true → F64.lt x y = false)
      ∧ (x.isFinite = true → y.isFinite = true → (F64.lt x y = true ↔ x.toRat < y.toRat))
      ∧ (x.isFinite = true → (F64.lt x F64.inf = true ∧ F64.lt F64.inf x = false))

/-- R87, R89, R95: the reason of a candidate, by the tests in their order, with the division f / t (R85: exact, or rounded
to binary64, where finite); the bounds 2 and 4095 are accepted. -/
def Obligations.ReasonsFollowTheOrderOfTests : Prop :=
  ∀ (mode : Numerics) (f t : F64),
    division .exact f t = some (f.toRat / t.toRat)
      ∧ ((F64.ofRat (f.toRat / t.toRat)).isFinite = true →
        division .binary64 f t = some (F64.ofRat (f.toRat / t.toRat)).toRat)
      ∧ evalCandidate mode false f t = .rejected .disabled
      ∧ (f.isPositive = false → evalCandidate mode true f t = .rejected .noFrequency)
      ∧ (f.isPositive = true → f.isFinite = true →
        ∀ d, division mode f t = some d →
          (d < 2 → evalCandidate mode true f t = .rejected .ratioBelowMin)
            ∧ (4095 < d → evalCandidate mode true f t = .rejected .ratioAboveMax)
            ∧ (2 ≤ d → d ≤ 4095 → evalCandidate mode true f t = .accepted (evaluate mode f t d)))

/-- R91: the divisor of an accepted candidate is in range and fits its fields, in either setting of NUMERICS. -/
def Obligations.AcceptedDivisorIsInRange : Prop :=
  ∀ (mode : Numerics) (enabled : Bool) (f t : F64) (e : Evaluation),
    evalCandidate mode enabled f t = .accepted e →
    2048 ≤ e.n ∧ e.n ≤ 4193280 ∧ 2 ≤ e.divI ∧ e.divI ≤ 4095 ∧ e.divF ≤ 1023
      ∧ (e.divI = 4095 → e.divF = 0) ∧ e.divI * 1024 + e.divF = e.n
      ∧ 2 ≤ ratioOf e.divI e.divF ∧ ratioOf e.divI e.divF ≤ 4095

/-- R92: N = roundHalfUp(d × 1024), within half a step of d. -/
def Obligations.FixedPointHasClosedForm : Prop :=
  ∀ d : ℚ, 0 ≤ d →
    fixedPoint d = roundHalfUp (d * 1024) ∧ |(fixedPoint d : ℚ) / 1024 - d| ≤ 1 / 2048

/-- R85, R87, R88, R90: the carry where the fraction rounds up to 1024, the literal fields elsewhere, and the same divisor value,
realized frequency and error in either case. (Which operations are rounded: R88, assumption 20.) -/
def Obligations.CarryKeepsTheDivisor : Prop :=
  ∀ (mode : Numerics) (f t : F64) (d : ℚ), 0 ≤ d →
    let e := evaluate mode f t d
    let ratio : ℚ := ⌊d⌋₊ + (⌊(d - ⌊d⌋₊) * 1024 + 1 / 2⌋₊ : ℚ) / 1024
    let actual : ℚ := match mode with
      | .binary64 => (F64.ofRat (f.toRat / ratio)).toRat
      | .exact => f.toRat / ratio
    (2047 / 2 ≤ (d - ⌊d⌋₊) * 1024 → e.divI = ⌊d⌋₊ + 1 ∧ e.divF = 0)
    ∧ ((d - ⌊d⌋₊) * 1024 < 2047 / 2 → e.divI = ⌊d⌋₊ ∧ e.divF = ⌊(d - ⌊d⌋₊) * 1024 + 1 / 2⌋₊)
    ∧ ratioOf e.divI e.divF = ratio
    ∧ e.actualHz = F64.ofRat (f.toRat / ratio)
    ∧ e.errHz = F64.ofRat |t.toRat - actual|
    ∧ e.error = (match mode with
      | .binary64 => (F64.ofRat |t.toRat - actual|).toRat
      | .exact => |t.toRat - actual|)

/-- R88: in BINARY64 the fraction, the fraction × 1024 and the divisor N / 1024 of an accepted candidate are binary64 values. -/
def Obligations.IntermediatesAreExactInBinary64 : Prop :=
  ∀ (enabled : Bool) (f t : F64) (e : Evaluation),
    evalCandidate .binary64 enabled f t = .accepted e →
    (∃ x : F64, x.isFinite = true ∧ x.toRat = e.division - ⌊e.division⌋₊)
      ∧ (∃ x : F64, x.isFinite = true ∧ x.toRat = (e.division - ⌊e.division⌋₊) * 1024)
      ∧ ∃ x : F64, x.isFinite = true ∧ x.toRat = (e.n : ℚ) / 1024

/-- R93: in BINARY64 a division that overflows is above the range, and one that underflows is below it. -/
def Obligations.OverflowAndUnderflowAreRejected : Prop :=
  ∀ f t : F64, f.isFinite = true → f.isPositive = true → t.isFinite = true → t.isPositive = true →
    ((2 : ℚ) ^ 1024 - 2 ^ 970 ≤ f.toRat / t.toRat →
      division .binary64 f t = none ∧ evalCandidate .binary64 true f t = .rejected .ratioAboveMax)
    ∧ (f.toRat / t.toRat ≤ 1 / (2 : ℚ) ^ 1075 →
      division .binary64 f t = some 0 ∧ evalCandidate .binary64 true f t = .rejected .ratioBelowMin)

/-- R94: where f / t is a multiple k/1024 in [2, 4095], the target is realized exactly and the error is +0.0, in either
setting. -/
def Obligations.ExactDivisorHasZeroError : Prop :=
  ∀ (mode : Numerics) (f t : F64) (k : Nat),
    f.isFinite = true → t.isFinite = true → t.isPositive = true →
    2048 ≤ k → k ≤ 4193280 → f.toRat = t.toRat * (k / 1024) →
    ∃ e, evalCandidate mode true f t = .accepted e
      ∧ e.n = k ∧ e.divI = k / 1024 ∧ e.divF = k % 1024
      ∧ e.actualHz = t ∧ e.errHz = 0#64 ∧ e.error = 0

/-! ## Selection -/

/-- R99, R100, R101, R103, R104: Select answers exactly the candidate of least error, then highest frequency, then lowest
index, and none exactly when no source is accepted; every source gets its reason (R106). -/
def Obligations.SelectFindsTheWinner : Prop :=
  ∀ (mode : Numerics) (t : F64) (rows : List (Source × F64)),
    (∀ c, select mode t rows = some c ↔ Wins mode t rows c)
      ∧ (select mode t rows = none ↔ ¬ SomeAccepted mode t rows)
      ∧ (reasonsOf mode t rows).length = rows.length
      ∧ ∀ (i : ℕ) (row : Source × F64), rows[i]? = some row →
        (reasonsOf mode t rows)[i]? = some (evalCandidate mode row.1.enabled row.2 t).reason

/-- R105: in another order of SOURCES the winner has the same error and frequency, and is the same source unless two accepted
sources are equal in both. -/
def Obligations.SelectionIsIndependentOfOrder : Prop :=
  ∀ (mode : Numerics) (t : F64) (rows rows' : List (Source × F64)), rows.Perm rows' →
    (select mode t rows = none ↔ select mode t rows' = none)
      ∧ ∀ c c', select mode t rows = some c → select mode t rows' = some c' →
        c'.eval.error = c.eval.error ∧ c'.freq.toRat = c.freq.toRat
          ∧ ((∀ r₁ ∈ rows, ∀ r₂ ∈ rows, ∀ e₁ e₂, verdictOf mode t r₁ = .accepted e₁ →
                verdictOf mode t r₂ = .accepted e₂ → e₁.error = e₂.error → r₁.2.toRat = r₂.2.toRat → r₁ = r₂) →
              c'.src = c.src ∧ c'.freq = c.freq ∧ c'.eval = c.eval)

/-! ## SELPROG -/

/-- R108, R134: SELPROG's guards in their order; a failed guard sets `status` and changes nothing else, with no access and no
park request (R106: `reason` and `target` unchanged). -/
def Obligations.SelprogGuardsComeFirst : Prop :=
  ∀ (s : State) (tgt : F64),
    (s.eng.init = false →
      ∃ t, exec (.selprog tgt) s = .next t ∧ t.eng = { s.eng with status := .notInitialized, phase := .idle }
        ∧ t.dev = s.dev ∧ t.cfg = s.cfg ∧ t.env = s.env ∧ t.trace = s.trace ++ [t.eng.response])
    ∧ (s.eng.init = true → (tgt.isFinite = false ∨ tgt.toRat ≤ 0) →
      ∃ t, exec (.selprog tgt) s = .next t ∧ t.eng = { s.eng with status := .invalidTarget, phase := .idle }
        ∧ t.dev = s.dev ∧ t.cfg = s.cfg ∧ t.env = s.env ∧ t.trace = s.trace ++ [t.eng.response])

/-- R102: with no accepted source SELPROG fails with NoSuitableSource, the results cleared, every reason kept and none of them
ACCEPTED, with no register access and no park request. -/
def Obligations.NoSuitableSourceClearsResults : Prop :=
  ∀ (s : State) (tgt : F64), s.eng.init = true → tgt.isFinite = true → 0 < tgt.toRat →
    ¬ SomeAccepted s.cfg.numerics tgt s.rows →
    ∃ t, exec (.selprog tgt) s = .next t
      ∧ t.eng = { s.eng with
          target := tgt, reason := reasonsOf s.cfg.numerics tgt s.rows, resValid := false,
          res := ⟨0, 0#4, 0#12, 0#10, 0#64, 0#64⟩, status := .noSuitableSource, phase := .idle }
      ∧ t.eng.reason.length = s.cfg.sources.length ∧ (∀ r ∈ t.eng.reason, r ≠ .accepted)
      ∧ t.dev = s.dev ∧ t.cfg = s.cfg ∧ t.env = s.env ∧ t.trace = s.trace ++ [t.eng.response]

/-- R99, R108: with an accepted source SELPROG latches the target, records every reason, holds the winner and enters the stop
sequence; no register is accessed yet. -/
def Obligations.SelprogHoldsTheWinner : Prop :=
  ∀ (s : State) (tgt : F64), s.eng.init = true → tgt.isFinite = true → 0 < tgt.toRat →
    SomeAccepted s.cfg.numerics tgt s.rows →
    ∃ t c, exec (.selprog tgt) s = .next t ∧ Wins s.cfg.numerics tgt s.rows c
      ∧ t.eng = { s.eng with
          target := tgt, reason := reasonsOf s.cfg.numerics tgt s.rows, stopFor := .selprog, phase := .s1,
          sel := ⟨c.idx, c.src, BitVec.ofNat 12 c.eval.divI, BitVec.ofNat 10 c.eval.divF, c.eval.actualHz,
            c.eval.errHz⟩ }
      ∧ t.dev = s.dev ∧ t.cfg = s.cfg ∧ t.env = s.env ∧ t.trace = s.trace

/-! ## The register words -/

/-- R30, R67, R110: WR_DIV programs DIVI and DIVF, writes the divider word at DIV_ADDR, and changes nothing else. -/
def Obligations.WrDivProgramsTheDivider : Prop :=
  ∀ (s : State) (divI : BitVec 12) (divF : BitVec 10), ∃ t w,
    exec (.wrDiv divI divF) s = .next t
      ∧ w.toNat = 0x5A * 2 ^ 24 + divI.toNat * 2 ^ 12 + divF.toNat
      ∧ t.dev = { s.dev with div := ⟨divI, divF⟩ } ∧ t.eng = { s.eng with phase := .p2 }
      ∧ t.cfg = s.cfg ∧ t.env = s.env ∧ t.trace = s.trace ++ [.write s.divAddr w]

/-- R69, R111: WR_CTL_ENABLE selects the source, sets MASH = 1 and ENAB = 1, clears FLIP and KILL, leaves BUSY to the
generator, writes 0x5A00_0210 | SRC at CTL_ADDR, and changes nothing else. -/
def Obligations.WrCtlEnableStartsTheGenerator : Prop :=
  ∀ (s : State) (src : BitVec 4), ∃ t w,
    exec (.wrCtlEnable src) s = .next t
      ∧ w.toNat = 0x5A000210 + src.toNat
      ∧ t.dev = { s.dev with ctl := ⟨src, true, false, s.dev.ctl.busy, false, 1#2⟩ }
      ∧ t.eng = { s.eng with phase := .p4 }
      ∧ t.cfg = s.cfg ∧ t.env = s.env ∧ t.trace = s.trace ++ [.write s.ctlAddr w]

/-- R70, R114: WR_CTL_DISABLE writes SRC, FLIP and MASH back, clears ENAB and KILL, leaves BUSY to the generator, starts the
poll count at 0, and changes nothing else. -/
def Obligations.WrCtlDisableStopsTheGenerator : Prop :=
  ∀ (s : State) (src : BitVec 4) (flip : Bool) (mash : BitVec 2), ∃ t w,
    exec (.wrCtlDisable src flip mash) s = .next t
      ∧ w.toNat = 0x5A000000 + mash.toNat * 2 ^ 9 + flip.toNat * 2 ^ 8 + src.toNat
      ∧ t.dev = { s.dev with ctl := ⟨src, false, false, s.dev.ctl.busy, flip, mash⟩ }
      ∧ t.eng = { s.eng with pollCount := 0, phase := .s3 }
      ∧ t.cfg = s.cfg ∧ t.env = s.env ∧ t.trace = s.trace ++ [.write s.ctlAddr w]

/-- R29, R31, R71: a register write without the password has no effect; with it the register loads the fields at their bits
and ignores every other bit, BUSY among them. -/
def Obligations.WritesAreGatedByThePassword : Prop :=
  ∀ (d : Device) (reg : BusReg) (w : Word),
    (w.toNat / 2 ^ 24 ≠ 0x5A → d.writeReg reg w = d)
      ∧ (w.toNat / 2 ^ 24 = 0x5A →
        (d.writeReg .div w = { d with div := ⟨BitVec.ofNat 12 (w.toNat / 2 ^ 12), BitVec.ofNat 10 w.toNat⟩ })
          ∧ d.writeReg .ctl w = { d with
              ctl := ⟨BitVec.ofNat 4 w.toNat, w.getLsbD 4, w.getLsbD 5, d.ctl.busy, w.getLsbD 8,
                BitVec.ofNat 2 (w.toNat / 2 ^ 9)⟩ })

/-- R28, R41: a CTL read returns SRC, BUSY, FLIP and MASH at their bits, and every other bit as the device gives it (U12
beside R29's PASSWD: assumption 15). -/
def Obligations.CtlReadReturnsTheFields : Prop :=
  ∀ (c : CtlReg) (free : Word),
    ctlSrcField (c.readWord free) = c.src ∧ ctlBusyField (c.readWord free) = c.busy
      ∧ ctlFlipField (c.readWord free) = c.flip ∧ ctlMashField (c.readWord free) = c.mash
      ∧ c.readWord free &&& 0xFFFFF870#32 = free &&& 0xFFFFF870#32

/-- R44: the register addresses, as sums modulo 2^32; R43: every access of a step, from any state with the invariant, is at a
multiple of 4. -/
def Obligations.RegisterAddressesAreAlignedSums : Prop :=
  (∀ s : State,
    s.ctlAddr.toNat
        = (s.eng.periphBase.toNat + 4 * s.cfg.cmBlockOffset.toNat + 4 * s.cfg.ctlOffset.toNat) % 2 ^ 32
      ∧ s.divAddr.toNat
        = (s.eng.periphBase.toNat + 4 * s.cfg.cmBlockOffset.toNat + 4 * s.cfg.divOffset.toNat) % 2 ^ 32)
    ∧ ∀ s t : State, s.Inv → step s = .next t → ∀ es, t.trace = s.trace ++ es →
      ∀ a v, .read a v ∈ es ∨ .write a v ∈ es → a.toNat % 4 = 0

/-! ## The stop sequence and the ends of the commands -/

/-- R119: STOP before INIT fails with NotInitialized and no access; else it enters the stop sequence. -/
def Obligations.StopEntersTheStopSequence : Prop :=
  ∀ s : State,
    (s.eng.init = false →
      ∃ t, exec .stop s = .next t ∧ t.eng = { s.eng with status := .notInitialized, phase := .idle }
        ∧ t.dev = s.dev ∧ t.cfg = s.cfg ∧ t.env = s.env ∧ t.trace = s.trace ++ [t.eng.response])
    ∧ (s.eng.init = true →
      ∃ t, exec .stop s = .next t ∧ t.eng = { s.eng with stopFor := .stop, phase := .s1 }
        ∧ t.dev = s.dev ∧ t.cfg = s.cfg ∧ t.env = s.env ∧ t.trace = s.trace)

/-- R114: S1 and S2 clear ENAB and KILL and leave SRC, FLIP and MASH as they were, whatever the device returns in the other
bits of the read. -/
def Obligations.DisableKeepsSourceFlipAndMash : Prop :=
  ∀ s : State, s.eng.phase = .s1 → s.env.presentsNow = false →
    ∃ t, run 2 s = .next t
      ∧ t.dev.ctl = { s.dev.ctl with enab := false, kill := false, busy := t.dev.ctl.busy }
      ∧ t.dev.div = s.dev.div ∧ t.dev.pin = s.dev.pin
      ∧ t.eng = { s.eng with ctlRead := s.memReadValue .ctl, pollCount := 0, phase := .s3 }
      ∧ t.trace = s.trace ++ [.read s.ctlAddr (s.memReadValue .ctl),
          .write s.ctlAddr (0x5A000000#32 ||| (s.memReadValue .ctl &&& 0x0000070F#32))]

/-- R116, R117: one poll reads CTL and counts; it ends the poll when BUSY reads 0, ends it with stopTimeout at the bound, and
else waits POLL_INTERVAL and polls again. (What a read returns: R41, assumption 15.) -/
def Obligations.PollEndsOnNotBusyOrAtTheBound : Prop :=
  ∀ s : State, s.eng.phase = .s3 → s.env.presentsNow = false →
    ∃ t, step s = .next t ∧ s.dev.sameButBusy t.dev
      ∧ (s.dev.ctl.busy = false →
        t.eng = { s.eng with pollCount := s.eng.pollCount + 1, phase := .s4 }
          ∧ t.trace = s.trace ++ [.read s.ctlAddr (s.memReadValue .ctl)])
      ∧ (s.dev.ctl.busy = true → s.eng.pollCount + 1 = (s.cfg.pollMax : ℕ) →
        t.eng = { s.eng with pollCount := s.eng.pollCount + 1, stopTimeout := true, phase := .s4 }
          ∧ t.trace = s.trace ++ [.read s.ctlAddr (s.memReadValue .ctl)])
      ∧ (s.dev.ctl.busy = true → s.eng.pollCount + 1 ≠ (s.cfg.pollMax : ℕ) →
        t.eng = { s.eng with pollCount := s.eng.pollCount + 1, phase := .s3 }
          ∧ t.trace = s.trace ++ [.read s.ctlAddr (s.memReadValue .ctl), .wait s.cfg.pollInterval])

/-- R118: S4 parks the pin and goes to P1 or T1 by the caller of the stop sequence; R111: P2 waits SETTLE_TIME; R112: P4
records the selection and responds OK; R119: T1 clears resValid alone and responds OK. -/
def Obligations.WordlessStepsFollowTheirRules : Prop :=
  ∀ s : State, s.env.presentsNow = false →
    (s.eng.phase = .s4 → ∃ t, step s = .next t
      ∧ t.eng = { s.eng with phase := if s.eng.stopFor = .selprog then .p1 else .t1 }
      ∧ t.dev.pin = .input ∧ { s.dev with pin := .input }.sameButBusy t.dev ∧ t.trace = s.trace ++ [.park])
    ∧ (s.eng.phase = .p2 → ∃ t, step s = .next t
      ∧ t.eng = { s.eng with phase := .p3 } ∧ s.dev.sameButBusy t.dev
      ∧ t.trace = s.trace ++ [.wait s.cfg.settleTime])
    ∧ (s.eng.phase = .p4 → ∃ t, step s = .next t
      ∧ t.eng = { s.eng with resValid := true, res := s.eng.sel, status := .ok, phase := .idle }
      ∧ s.dev.sameButBusy t.dev ∧ t.trace = s.trace ++ [t.eng.response])
    ∧ (s.eng.phase = .t1 → ∃ t, step s = .next t
      ∧ t.eng = { s.eng with resValid := false, status := .ok, phase := .idle }
      ∧ s.dev.sameButBusy t.dev ∧ t.trace = s.trace ++ [t.eng.response])

/-- R26, R63, R65: the response word, field by field; and every step that ends a command, and no other, presents RESP, ACT and
the reasons of the state it leaves. -/
def Obligations.ResponsesCarryTheFinalState : Prop :=
  (∀ e : Engine,
    e.resp.toNat = e.res.src.toNat * 2 ^ 8 + e.resValid.toNat * 2 ^ 5 + e.stopTimeout.toNat * 2 ^ 4
        + e.status.code.toNat
      ∧ e.status.code.toNat ≤ 6)
    ∧ ∀ s t : State, step s = .next t → ∃ es, t.trace = s.trace ++ es
      ∧ (t.eng.phase = .idle →
        es = [.respond t.eng.resp t.eng.res.actualHz (t.eng.reason.map Reason.code)]
          ∨ (es = [] ∧ s.eng.phase = .idle))
      ∧ (t.eng.phase ≠ .idle → ∀ e ∈ es, e.isResponse = false)

/-! ## Whole commands -/

/-- R122, R125: a STOP after INIT ends within POLL_MAX + 5 steps, after at most POLL_MAX polls, with the clock disabled, the
pin parked, SRC, FLIP, MASH and DIV as before, and BUSY = 0 unless it reports a timeout. (The count of steps is one for each
micro-step, assumptions 5 and 11; the pin stays an input by assumption 13.) -/
def Obligations.StopEndsWithinThePollBound : Prop :=
  ∀ s : State, s.eng.phase = .t0 → s.eng.init = true → s.env.presentsNow = false →
    ∃ (k : ℕ) (t : State) (es : List Event), k ≤ (s.cfg.pollMax : ℕ) + 5 ∧ run k s = .next t ∧ t.trace = s.trace ++ es
      ∧ t.eng.phase = .idle ∧ t.eng.status = .ok ∧ t.eng.resValid = false ∧ t.eng.res = s.eng.res
      ∧ t.dev.ctl = { s.dev.ctl with enab := false, kill := false, busy := t.dev.ctl.busy }
      ∧ (t.eng.stopTimeout = false → t.dev.ctl.busy = false)
      ∧ t.dev.div = s.dev.div ∧ t.dev.pin = .input
      ∧ 2 ≤ es.countP Event.isRead ∧ es.countP Event.isRead ≤ (s.cfg.pollMax : ℕ) + 1
      ∧ es.countP Event.isWait + 1 ≤ (s.cfg.pollMax : ℕ)
      ∧ es.countP Event.isWrite = 1 ∧ es.countP Event.isPark = 1

/-- R109, R120, R121, R154, R156: a SELPROG with an accepted source ends within POLL_MAX + 8 steps whatever the generator
does; its actions are, in order, the read and the disable write, the polls, the park, the divider write, the settle wait
and the enable write; and the winner is programmed, enabled and recorded, with the pin parked. (The count of steps is one for
each micro-step, assumptions 5 and 11; the pin stays an input by assumption 13.) -/
def Obligations.SelprogEndsWithTheWinnerProgrammed : Prop :=
  ∀ s : State, s.eng.phase = .p0 → s.eng.init = true → s.env.presentsNow = false →
    s.eng.tgtIn.isFinite = true → 0 < s.eng.tgtIn.toRat → SomeAccepted s.cfg.numerics s.eng.tgtIn s.rows →
    ∃ (k : ℕ) (t : State) (c : Candidate) (r : Word) (polls : List Event), k ≤ (s.cfg.pollMax : ℕ) + 8 ∧ run k s = .next t
      ∧ Wins s.cfg.numerics s.eng.tgtIn s.rows c
      ∧ t.trace = s.trace
          ++ [.read s.ctlAddr r, .write s.ctlAddr (disableWord r)] ++ polls
          ++ [.park, .write s.divAddr (divWord t.eng.res.divI t.eng.res.divF), .wait s.cfg.settleTime,
              .write s.ctlAddr (enableWord c.src), t.eng.response]
      ∧ (∀ e ∈ polls, e = .wait s.cfg.pollInterval ∨ ∃ v, e = .read s.ctlAddr v)
      ∧ 1 ≤ polls.countP Event.isRead ∧ polls.countP Event.isRead ≤ (s.cfg.pollMax : ℕ)
      ∧ t.eng.phase = .idle ∧ t.eng.status = .ok ∧ t.eng.resValid = true ∧ t.eng.res = c.selection
      ∧ t.dev.div = ⟨t.eng.res.divI, t.eng.res.divF⟩
      ∧ t.dev.ctl = ⟨c.src, true, false, t.dev.ctl.busy, false, 1#2⟩ ∧ t.dev.pin = .input

/-! ## Rules of the whole machine -/

/-- R33: BUSY rises only while ENAB = 1 and KILL = 0, and falls only while ENAB = 0 or KILL = 1, in the state the engine's
micro-step leaves; and the generator's move, once made, makes the change (one move after each step, assumption 5). -/
def Obligations.BusyFollowsItsLaw : Prop :=
  (∀ s t : State, step s = .next t →
    (s.dev.ctl.busy = false → t.dev.ctl.busy = true → t.dev.ctl.enab = true ∧ t.dev.ctl.kill = false)
      ∧ (s.dev.ctl.busy = true → t.dev.ctl.busy = false → t.dev.ctl.enab = false ∨ t.dev.ctl.kill = true))
    ∧ ∀ s : State, s.env.busyMove = true →
      s.generatorMove.dev.ctl.busy = (s.dev.ctl.enab && !s.dev.ctl.kill)

/-- R41, R45: the register accesses of a step are exactly those of the table, by label and address, and a read gives the value
of CTL (its free bits: assumption 15). -/
def Obligations.AccessesAreThoseOfTheTable : Prop :=
  ∀ s t : State, step s = .next t → ∃ es, t.trace = s.trace ++ es
    ∧ (s.eng.phase = .s1 ∨ s.eng.phase = .s3 →
      es.filter Event.isAccess = [.read s.ctlAddr (s.memReadValue .ctl)])
    ∧ (s.eng.phase = .s2 → es.filter Event.isAccess = [.write s.ctlAddr (disableWord s.eng.ctlRead)])
    ∧ (s.eng.phase = .p1 →
      es.filter Event.isAccess = [.write s.divAddr (divWord s.eng.sel.divI s.eng.sel.divF)])
    ∧ (s.eng.phase = .p3 → es.filter Event.isAccess = [.write s.ctlAddr (enableWord s.eng.sel.src)])
    ∧ (s.eng.phase ≠ .s1 → s.eng.phase ≠ .s2 → s.eng.phase ≠ .s3 → s.eng.phase ≠ .p1 → s.eng.phase ≠ .p3 →
      es.filter Event.isAccess = [])

/-- R68: every word a step writes has 0x5A in bits 31:24 and zero in the reserved bits of its register. -/
def Obligations.WrittenWordsCarryPasswordAndNoReservedBit : Prop :=
  ∀ s t : State, step s = .next t → ∀ es, t.trace = s.trace ++ es → ∀ a w, .write a w ∈ es →
    w.toNat / 2 ^ 24 = 0x5A
      ∧ (s.eng.phase = .p1 → w &&& 0x00000C00#32 = 0#32)
      ∧ (s.eng.phase ≠ .p1 → w &&& 0x00FFF840#32 = 0#32)

/-- R118, R124: the engine sets the pin only to INPUT, at S4; any other change is the outside world's, which comes at IDLE by the
model's choice (assumption 13). No word it writes to CTL has KILL = 1 (bit 5), so KILL stands only where it stood before; FLIP
and MASH are left as they were, or made 0 and 1 (R124 on FLIP: assumption 17). -/
def Obligations.EngineNeverDrivesThePinNorKills : Prop :=
  ∀ s t : State, s.Inv → step s = .next t →
    (t.dev.pin ≠ s.dev.pin →
      (s.eng.phase = .s4 ∧ t.dev.pin = .input)
        ∨ (s.eng.phase = .idle ∧ s.env.caller.head? = some (.setPin t.dev.pin)))
      ∧ (t.dev.ctl.kill = true → s.dev.ctl.kill = true)
      ∧ (t.dev.ctl.flip = true → s.dev.ctl.flip = true)
      ∧ (t.dev.ctl.mash = s.dev.ctl.mash ∨ t.dev.ctl.mash = 1#2)
      ∧ ∀ es, t.trace = s.trace ++ es → ∀ a w, .write a w ∈ es → s.eng.phase ≠ .p1 → w.getLsbD 5 = false

/-- R126: a command that fails at its first micro-step leaves CTL (but BUSY), DIV and the pin untouched, does nothing at the
interfaces but respond, and is idle again; and it ends so whenever its status is an error. -/
def Obligations.ErrorsArePrecise : Prop :=
  ∀ s t : State, step s = .next t →
    (s.eng.phase = .i1 ∨ s.eng.phase = .f1 ∨ s.eng.phase = .p0 ∨ s.eng.phase = .t0) →
    s.dev.sameButBusy t.dev
      ∧ (t.eng.phase = .idle → t.trace = s.trace ++ [t.eng.response])
      ∧ (t.eng.phase ≠ .idle → t.eng.phase = .s1 ∧ t.trace = s.trace ∧ t.eng.status = s.eng.status)

/-- R16, R17: which label writes which register; no step changes the configuration. -/
def Obligations.RegistersAreWrittenByTheirCommands : Prop :=
  ∀ s t : State, step s = .next t →
    t.cfg = s.cfg
      ∧ (t.eng.init ≠ s.eng.init ∨ t.eng.periphBase ≠ s.eng.periphBase → s.eng.phase = .i1)
      ∧ (t.eng.freq ≠ s.eng.freq → s.eng.phase = .f1)
      ∧ (t.eng.reason ≠ s.eng.reason ∨ t.eng.target ≠ s.eng.target → s.eng.phase = .p0)
      ∧ (t.eng.resValid ≠ s.eng.resValid → s.eng.phase = .p0 ∨ s.eng.phase = .p4 ∨ s.eng.phase = .t1)
      ∧ (t.eng.res ≠ s.eng.res → s.eng.phase = .p0 ∨ s.eng.phase = .p4)
      ∧ (t.eng.pollCount ≠ s.eng.pollCount → s.eng.phase = .s2 ∨ s.eng.phase = .s3)
      ∧ (t.eng.stopTimeout ≠ s.eng.stopTimeout → s.eng.phase = .idle ∨ s.eng.phase = .s3)
      ∧ (t.eng.status ≠ s.eng.status → t.eng.phase = .idle)

/-- R29, R114: what reads return in PASSWD, ENAB, KILL and the reserved bits (U12) never influences the engine or the device:
two runs that differ only in it stay equal but for the unused bits of the value held from S1 and the values in the log (the
list of answers is the model's, assumption 4; which bits are free: assumption 15). -/
def Obligations.ReservedBitsHaveNoInfluence : Prop :=
  ∀ (k : Nat) (s t : State) (bits : List Word), run k s = .next t →
    ∃ t', run k { s with env := { s.env with read := bits } } = .next t'
      ∧ t'.dev = t.dev ∧ t'.cfg = t.cfg
      ∧ { t'.eng with ctlRead := t'.eng.ctlRead &&& 0x0000070F#32 }
        = { t.eng with ctlRead := t.eng.ctlRead &&& 0x0000070F#32 }

/-! ## Programs -/

/-- R61, R62: START is REFRESH followed by SELPROG of the same target, and a target is the binary64 value nearest to the number
that its literal denotes (a literal as a rational number is the model's choice, assumption 24). -/
def Obligations.StartIsRefreshThenSelprog : Prop :=
  (∀ x : ℚ, (ProgramLine.start x).commands = ProgramLine.refresh.commands ++ (ProgramLine.selprog x).commands
      ∧ (ProgramLine.selprog x).commands = [(0x00000003#32, F64.ofRat x)])
    ∧ (ProgramLine.selprog 77500).commands = [(0x00000003#32, 0x40F2EBC000000000#64)]
    ∧ (ProgramLine.selprog (-5)).commands = [(0x00000003#32, 0xC014000000000000#64)]
end

