-- ==== Sys2Proof/Laws/Words.lean ====
section
/-!
SUPPORT. The opcode rows do not overlap on their own interface (spec 30_encoding.md R57, R71), and the fields of the three
register words (R67 to R70).
-/

namespace Sys2Proof

/-- Two rows of one interface differ in a bit that both fix, so no word selects both (R57, R71). -/
theorem opcodeRows_disjoint :
    opcodeRows.Pairwise fun a b =>
      a.reg = b.reg → (a.pattern ^^^ b.pattern) &&& (a.mask &&& b.mask) ≠ 0#32 := by
  decide

/-- Two words of one width are equal when every bit below the width agrees. -/
theorem bits_ext {n : Nat} {a b : BitVec n} (h : ∀ k, k < n → a.getLsbD k = b.getLsbD k) : a = b :=
  BitVec.eq_of_getLsbD_eq fun k hk => h k hk

theorem passwdField_divWord (divI : BitVec 12) (divF : BitVec 10) :
    passwdField (divWord divI divF) = Config.passwd := by
  apply bits_ext
  intro k hk
  interval_cases k <;> simp [passwdField, divWord, Config.passwd, BitVec.getLsbD_of_ge]

theorem passwdField_disableWord (r : Word) : passwdField (disableWord r) = Config.passwd := by
  apply bits_ext
  intro k hk
  interval_cases k <;> simp [passwdField, disableWord, Config.passwd]

theorem passwdField_enableWord : ∀ src : BitVec 4, passwdField (enableWord src) = Config.passwd := by
  decide

theorem divIField_divWord (divI : BitVec 12) (divF : BitVec 10) : divIField (divWord divI divF) = divI := by
  apply bits_ext
  intro k hk
  interval_cases k <;> simp [divIField, divWord, Config.passwd, BitVec.getLsbD_of_ge]

theorem divFField_divWord (divI : BitVec 12) (divF : BitVec 10) : divFField (divWord divI divF) = divF := by
  apply bits_ext
  intro k hk
  interval_cases k <;> simp [divFField, divWord, Config.passwd]

end Sys2Proof
end

