-- ==== Sys2Proof/Laws/PerInstr.lean ====
section
/-!
SUPPORT. The family Gated: an instruction that goes on the register bus carries the password (spec 30_encoding.md R68).
-/

namespace Sys2Proof.Laws

/-- Every register word has 0x5A in bits 31:24 (R68). -/
def Gated.Statement (i : Instr) : Prop :=
  ∀ reg w, encode i = .write reg w → passwdField w = Config.passwd

theorem Gated.init : Gated.Statement .init := by
  intro reg w h; cases h

theorem Gated.refresh : Gated.Statement .refresh := by
  intro reg w h; cases h

theorem Gated.selprog (tgt : F64) : Gated.Statement (.selprog tgt) := by
  intro reg w h; cases h

theorem Gated.stop : Gated.Statement .stop := by
  intro reg w h; cases h

theorem Gated.wrDiv (divI : BitVec 12) (divF : BitVec 10) : Gated.Statement (.wrDiv divI divF) := by
  intro reg w h; cases h; exact passwdField_divWord divI divF

theorem Gated.wrCtlEnable (src : BitVec 4) : Gated.Statement (.wrCtlEnable src) := by
  intro reg w h; cases h; exact passwdField_enableWord src

theorem Gated.wrCtlDisable (src : BitVec 4) (flip : Bool) (mash : BitVec 2) :
    Gated.Statement (.wrCtlDisable src flip mash) := by
  intro reg w h; cases h; exact passwdField_disableWord _

end Sys2Proof.Laws
end

