-- ==== Sys2Proof/Laws/State.lean ====
section
/-!
SUPPORT. What each shared operation leaves in each part of State: one lemma per part per operation.
-/

namespace Sys2Proof.Machine

variable (s : State)

@[simp] theorem record_cfg (e : Event) : (s.record e).cfg = s.cfg := rfl
@[simp] theorem record_eng (e : Event) : (s.record e).eng = s.eng := rfl
@[simp] theorem record_dev (e : Event) : (s.record e).dev = s.dev := rfl
@[simp] theorem record_env (e : Event) : (s.record e).env = s.env := rfl
@[simp] theorem record_trace (e : Event) : (s.record e).trace = s.trace ++ [e] := rfl

@[simp] theorem goto_cfg (p : Phase) : (s.goto p).cfg = s.cfg := rfl
@[simp] theorem goto_eng (p : Phase) : (s.goto p).eng = { s.eng with phase := p } := rfl
@[simp] theorem goto_dev (p : Phase) : (s.goto p).dev = s.dev := rfl
@[simp] theorem goto_env (p : Phase) : (s.goto p).env = s.env := rfl
@[simp] theorem goto_trace (p : Phase) : (s.goto p).trace = s.trace := rfl

@[simp] theorem memWrite_cfg (r : BusReg) (w : Word) : (s.memWrite r w).cfg = s.cfg := rfl
@[simp] theorem memWrite_eng (r : BusReg) (w : Word) : (s.memWrite r w).eng = s.eng := rfl
@[simp] theorem memWrite_dev (r : BusReg) (w : Word) : (s.memWrite r w).dev = s.dev.writeReg r w := rfl
@[simp] theorem memWrite_env (r : BusReg) (w : Word) : (s.memWrite r w).env = s.env := rfl
@[simp] theorem memWrite_trace (r : BusReg) (w : Word) :
    (s.memWrite r w).trace = s.trace ++ [.write (s.regAddr r) w] := rfl

@[simp] theorem memRead_cfg (r : BusReg) : (s.memRead r).cfg = s.cfg := rfl
@[simp] theorem memRead_eng (r : BusReg) : (s.memRead r).eng = s.eng := rfl
@[simp] theorem memRead_dev (r : BusReg) : (s.memRead r).dev = s.dev := rfl
@[simp] theorem memRead_env (r : BusReg) : (s.memRead r).env = s.env.takeRead := rfl
@[simp] theorem memRead_trace (r : BusReg) :
    (s.memRead r).trace = s.trace ++ [.read (s.regAddr r) (s.memReadValue r)] := rfl

@[simp] theorem wait_cfg (n : Nat) : (s.wait n).cfg = s.cfg := rfl
@[simp] theorem wait_eng (n : Nat) : (s.wait n).eng = s.eng := rfl
@[simp] theorem wait_dev (n : Nat) : (s.wait n).dev = s.dev := rfl
@[simp] theorem wait_env (n : Nat) : (s.wait n).env = s.env := rfl
@[simp] theorem wait_trace (n : Nat) : (s.wait n).trace = s.trace ++ [.wait n] := rfl

@[simp] theorem parkPin_cfg : s.parkPin.cfg = s.cfg := rfl
@[simp] theorem parkPin_eng : s.parkPin.eng = s.eng := rfl
@[simp] theorem parkPin_dev : s.parkPin.dev = { s.dev with pin := .input } := rfl
@[simp] theorem parkPin_env : s.parkPin.env = s.env := rfl
@[simp] theorem parkPin_trace : s.parkPin.trace = s.trace ++ [.park] := rfl

@[simp] theorem finish_cfg (st : Status) : (s.finish st).cfg = s.cfg := rfl
@[simp] theorem finish_eng (st : Status) : (s.finish st).eng = { s.eng with status := st, phase := .idle } := rfl
@[simp] theorem finish_dev (st : Status) : (s.finish st).dev = s.dev := rfl
@[simp] theorem finish_env (st : Status) : (s.finish st).env = s.env := rfl
@[simp] theorem finish_trace (st : Status) :
    (s.finish st).trace = s.trace ++ [(s.finish st).eng.response] := rfl

@[simp] theorem generatorMove_cfg : s.generatorMove.cfg = s.cfg := rfl
@[simp] theorem generatorMove_eng : s.generatorMove.eng = s.eng := rfl
@[simp] theorem generatorMove_env : s.generatorMove.env = s.env.takeBusy := rfl
@[simp] theorem generatorMove_trace : s.generatorMove.trace = s.trace := rfl
@[simp] theorem generatorMove_pin : s.generatorMove.dev.pin = s.dev.pin := by
  unfold State.generatorMove; split <;> rfl
@[simp] theorem generatorMove_div : s.generatorMove.dev.div = s.dev.div := by
  unfold State.generatorMove; split <;> rfl

/-- The generator changes no field of CTL but BUSY (R33). -/
theorem generatorMove_ctl :
    s.generatorMove.dev.ctl = { s.dev.ctl with busy := s.generatorMove.dev.ctl.busy } := by
  unfold State.generatorMove; split <;> rfl

@[simp] theorem enter_cfg (i : Instr) (t : F64) : (s.enter i t).cfg = s.cfg := rfl
@[simp] theorem enter_eng (i : Instr) (t : F64) :
    (s.enter i t).eng = { s.eng with stopTimeout := false, phase := labelOf i, tgtIn := t } := rfl
@[simp] theorem enter_dev (i : Instr) (t : F64) : (s.enter i t).dev = s.dev := rfl
@[simp] theorem enter_env (i : Instr) (t : F64) : (s.enter i t).env = s.env := rfl
@[simp] theorem enter_trace (i : Instr) (t : F64) : (s.enter i t).trace = s.trace := rfl

@[simp] theorem illegalCommand_cfg : s.illegalCommand.cfg = s.cfg := rfl
@[simp] theorem illegalCommand_eng :
    s.illegalCommand.eng = { s.eng with stopTimeout := false, status := .illegalCommand, phase := .idle } := rfl
@[simp] theorem illegalCommand_dev : s.illegalCommand.dev = s.dev := rfl
@[simp] theorem illegalCommand_env : s.illegalCommand.env = s.env := rfl

@[simp] theorem clearResults_eq (e : Engine) :
    e.clearResults = { e with resValid := false, res := Selection.zero } := rfl

/-- No draw changes what the outside world presents. -/
@[simp] theorem takeProbe_caller (e : Env) : e.takeProbe.caller = e.caller := rfl
@[simp] theorem takeMap_caller (e : Env) : e.takeMap.caller = e.caller := rfl
@[simp] theorem takeMeas_caller (e : Env) : e.takeMeas.caller = e.caller := rfl
@[simp] theorem takeBusy_caller (e : Env) : e.takeBusy.caller = e.caller := rfl
@[simp] theorem takeRead_caller (e : Env) : e.takeRead.caller = e.caller := rfl

@[simp] theorem takeMeasN_caller (n : Nat) (e : Env) : (Env.takeMeasN n e).caller = e.caller := by
  induction n generalizing e with
  | zero => rfl
  | succ n ih => simp [Env.takeMeasN, ih]

@[simp] theorem measAnswers_length (n : Nat) (e : Env) : (Env.measAnswers n e).length = n := by
  induction n generalizing e with
  | zero => rfl
  | succ n ih => simp [Env.measAnswers, ih]

@[simp] theorem byteOffset_toNat (words : WordOffset) : (byteOffset words).toNat = 4 * words.toNat := by
  rw [byteOffset, BitVec.toNat_append, Nat.shiftLeft_eq]
  simp
  omega

/-- R116: BUSY of a CTL read is the register's, whatever the free bits are. -/
@[simp] theorem ctlBusyField_memReadValue (s : State) : ctlBusyField (s.memReadValue .ctl) = s.dev.ctl.busy := by
  simp [State.memReadValue, Device.readReg, CtlReg.readWord, ctlBusyField, BitVec.getLsbD_of_ge]

end Sys2Proof.Machine
end

