-- ==== Sys2Proof/Laws/Step.lean ====
section
/-!
SUPPORT. What one step can do, said once: each register word decodes to its own instruction, a step is the micro-step of its
label followed by the generator's move, and every next state comes from one of twelve cases (spec 10_state.md R25, R33;
30_encoding.md R67 to R72).
-/

namespace Sys2Proof

theorem decode_divWord (divI : BitVec 12) (divF : BitVec 10) :
    decode (.write .div (divWord divI divF)) = .ok (.wrDiv divI divF) := by
  have hsel : rowWrDiv.selects (divWord divI divF) = true := by
    simp only [OpcodeRow.selects, rowWrDiv, beq_iff_eq]
    apply bits_ext
    intro k hk
    interval_cases k <;> simp [divWord, Config.passwd, BitVec.getLsbD_of_ge]
  simp [decode, decodeWrite, passwdField_divWord, hsel, divIField_divWord, divFField_divWord]

theorem decode_enableWord : ∀ src : BitVec 4, decode (.write .ctl (enableWord src)) = .ok (.wrCtlEnable src) := by
  decide

theorem ctlSrcField_disableWord (r : Word) : ctlSrcField (disableWord r) = ctlSrcField r := by
  apply bits_ext
  intro k hk
  interval_cases k <;> simp [disableWord, Config.passwd, ctlSrcField]

theorem ctlFlipField_disableWord (r : Word) : ctlFlipField (disableWord r) = ctlFlipField r := by
  simp [disableWord, Config.passwd, ctlFlipField]

theorem ctlMashField_disableWord (r : Word) : ctlMashField (disableWord r) = ctlMashField r := by
  apply bits_ext
  intro k hk
  interval_cases k <;> simp [disableWord, Config.passwd, ctlMashField]

theorem decode_disableWord (r : Word) :
    decode (.write .ctl (disableWord r)) = .ok (.wrCtlDisable (ctlSrcField r) (ctlFlipField r) (ctlMashField r)) := by
  have hno : rowWrCtlEnable.selects (disableWord r) = false := by
    simp only [OpcodeRow.selects, rowWrCtlEnable, beq_eq_false_iff_ne]
    intro h
    have := congrArg (fun w : Word => w.getLsbD 4) h
    simp [disableWord, Config.passwd] at this
  have hsel : rowWrCtlDisable.selects (disableWord r) = true := by
    simp only [OpcodeRow.selects, rowWrCtlDisable, beq_iff_eq]
    apply bits_ext
    intro k hk
    interval_cases k <;> simp [disableWord, Config.passwd, BitVec.getLsbD_of_ge]
  simp [decode, decodeWrite, passwdField_disableWord, hno, hsel, ctlSrcField_disableWord, ctlFlipField_disableWord,
    ctlMashField_disableWord]

/-- The fields that S2 writes back are those of the value read at S1 (R70, R114). -/
theorem disableWord_keptFields (r : Word) :
    disableWord (keptFields (ctlSrcField r) (ctlFlipField r) (ctlMashField r)) = disableWord r := by
  apply bits_ext
  intro k hk
  interval_cases k <;>
    simp [disableWord, keptFields, Config.passwd, ctlSrcField, ctlFlipField, ctlMashField, BitVec.getLsbD_of_ge]

namespace Machine

/-- The micro-step of a label (R25). -/
theorem step_by_label (s : State) (h : s.overrun = false) : step s = thenGenerator (match s.eng.phase with
    | .idle => .next (idleStep s)
    | .i1 => exec .init s
    | .f1 => exec .refresh s
    | .p0 => exec (.selprog s.eng.tgtIn) s
    | .t0 => exec .stop s
    | .s1 => .next (readCtl s)
    | .s2 => exec (.wrCtlDisable (ctlSrcField s.eng.ctlRead) (ctlFlipField s.eng.ctlRead)
        (ctlMashField s.eng.ctlRead)) s
    | .s3 => .next (poll s)
    | .s4 => .next (park s)
    | .p1 => exec (.wrDiv s.eng.sel.divI s.eng.sel.divF) s
    | .p2 => .next (settle s)
    | .p3 => exec (.wrCtlEnable s.eng.sel.src) s
    | .p4 => .next (recordResult s)
    | .t1 => .next (stopDone s)) := by
  have hcmd (t : F64) : decode (.command 0x00000001#32 t) = .ok .init ∧ decode (.command 0x00000002#32 t) = .ok .refresh
      ∧ decode (.command 0x00000003#32 t) = .ok (.selprog t) ∧ decode (.command 0x00000004#32 t) = .ok .stop :=
    ⟨rfl, rfl, rfl, rfl⟩
  cases hp : s.eng.phase <;>
    simp [step, h, State.nextAction, hp, decode_divWord, decode_enableWord, decode_disableWord, hcmd, runMicro]

theorem overrun_of_quiet {s : State} (h : s.env.presentsNow = false) : s.overrun = false := by
  simp [State.overrun, h]

theorem overrun_of_idle {s : State} (h : s.eng.phase = .idle) : s.overrun = false := by
  simp [State.overrun, h]

/-- What the engine's half of a step does, by cases: the generator's half is still to come. -/
inductive EngineStep (s : State) : State → Prop
  | waits : s.eng.phase = .idle → s.env.caller = [] → EngineStep s s
  | setPin (f rest) : s.eng.phase = .idle → s.env.caller = .setPin f :: rest →
      EngineStep s { s with dev := { s.dev with pin := f }, env := { s.env with caller := rest } }
  | accept (cmd tgt waits rest i) : s.eng.phase = .idle → s.env.caller = .present cmd tgt waits :: rest →
      decode (.command cmd tgt) = .ok i →
      EngineStep s (({ s with env := { s.env with caller := rest } } : State).enter i tgt)
  | illegal (cmd tgt waits rest e) : s.eng.phase = .idle → s.env.caller = .present cmd tgt waits :: rest →
      decode (.command cmd tgt) = .error e →
      EngineStep s ({ s with env := { s.env with caller := rest } } : State).illegalCommand
  | exec (i u) : exec i s = .next u → s.eng.phase = labelOf i →
      (∀ t, i = .selprog t → t = s.eng.tgtIn) →
      (∀ a b, i = .wrDiv a b → a = s.eng.sel.divI ∧ b = s.eng.sel.divF) →
      (∀ a, i = .wrCtlEnable a → a = s.eng.sel.src) →
      (∀ a f m, i = .wrCtlDisable a f m →
        a = ctlSrcField s.eng.ctlRead ∧ f = ctlFlipField s.eng.ctlRead ∧ m = ctlMashField s.eng.ctlRead) →
      EngineStep s u
  | s1 : s.eng.phase = .s1 → EngineStep s (readCtl s)
  | s3 : s.eng.phase = .s3 → EngineStep s (poll s)
  | s4 : s.eng.phase = .s4 → EngineStep s (park s)
  | p2 : s.eng.phase = .p2 → EngineStep s (settle s)
  | p4 : s.eng.phase = .p4 → EngineStep s (recordResult s)
  | t1 : s.eng.phase = .t1 → EngineStep s (stopDone s)

theorem thenGenerator_next {o : Host.Outcome State Fault Refusal} {t : State} :
    thenGenerator o = .next t ↔ ∃ u, o = .next u ∧ t = u.generatorMove := by
  cases o <;> simp [thenGenerator, eq_comm]

theorem step_cases {s t : State} (h : step s = .next t) : ∃ u, EngineStep s u ∧ t = u.generatorMove := by
  have ho : s.overrun = false := by
    cases ho : s.overrun
    · rfl
    · simp [step, ho] at h
  rw [step_by_label s ho, thenGenerator_next] at h
  obtain ⟨u, h, ht⟩ := h
  refine ⟨u, ?_, ht⟩
  cases hp : s.eng.phase <;> simp only [hp] at h
  case idle =>
    cases h
    unfold idleStep
    rcases hc : s.env.caller with _ | ⟨⟨cmd, tgt, w⟩ | f, rest⟩
    · exact .waits hp hc
    · simp only [State.accept]
      cases hd : decode (.command cmd tgt) with
      | ok i => exact .accept cmd tgt w rest i hp hc hd
      | error e => exact .illegal cmd tgt w rest e hp hc hd
    · exact .setPin f rest hp hc
  case s1 => cases h; exact .s1 hp
  case s3 => cases h; exact .s3 hp
  case s4 => cases h; exact .s4 hp
  case p2 => cases h; exact .p2 hp
  case p4 => cases h; exact .p4 hp
  case t1 => cases h; exact .t1 hp
  all_goals exact .exec _ u h (by simp [labelOf, hp]) (by simp) (by simp) (by simp) (by simp)

/-- The generator either keeps BUSY or sets it by its law (R33). -/
theorem generatorMove_busy (s : State) :
    s.generatorMove.dev.ctl.busy = s.dev.ctl.busy
      ∨ s.generatorMove.dev.ctl.busy = (s.dev.ctl.enab && !s.dev.ctl.kill) := by
  unfold State.generatorMove
  split <;> simp [CtlReg.moveBusy]

end Machine

end Sys2Proof
end

