-- ==== Sys2Proof/Tests/Slice0.lean ====
section
/-!
SUPPORT. Tests of single steps, with expected values from spec 95_test_vectors.md (the row is named in each docstring); the
smoke tests of WellFormed; and, for every statement with hypotheses, a witness that meets them.
-/

namespace Sys2Proof.Tests

open Sys2Proof.Machine

/-! ## Helpers -/

/-- The example table of GK7. -/
def gk7 : List Source := [⟨1#4, "OSC", true⟩, ⟨5#4, "PLLC", false⟩, ⟨6#4, "PLLD", true⟩, ⟨7#4, "HDMI", true⟩]

def oscHdmi : List Source := [⟨1#4, "OSC", true⟩, ⟨7#4, "HDMI", true⟩]

/-- 19.2 MHz, 216 MHz, 500 MHz, 1 GHz; the targets 77500, 60000, 1024 and 1000 Hz. -/
def f19M2 : F64 := 0x41724F8000000000#64
def f216M : F64 := 0x41A9BFCC00000000#64
def f500M : F64 := 0x41BDCD6500000000#64
def f1G : F64 := 0x41CDCD6500000000#64
def t77500 : F64 := 0x40F2EBC000000000#64
def t60000 : F64 := 0x40ED4C0000000000#64
def t1024 : F64 := 0x4090000000000000#64
def t1000 : F64 := 0x408F400000000000#64

/-- The offsets of GK5 in words (0x00101000, 0x70, 0x74 and 0x00200000 bytes), POLL_MAX = 3. -/
def cfgOf (first : Source) (more : List Source) : Config :=
  ⟨first, more, .binary64, 0x40400#30, 0x1C#30, 0x1D#30, 0x80000#30, 5, 3, 2⟩

/-- The table `oscHdmi` as parameters. -/
def cfgOscHdmi : Config := cfgOf ⟨1#4, "OSC", true⟩ [⟨7#4, "HDMI", true⟩]

/-- The stored fields of a CTL value, as 95_test_vectors.md writes them. -/
def ctlOf (w : Word) : CtlReg :=
  ⟨ctlSrcField w, ctlEnabField w, ctlKillField w, ctlBusyField w, ctlFlipField w, ctlMashField w⟩

/-- The divider of E6 (HDMI at 60000 Hz), held for P1 to P4. -/
def held : Selection := ⟨1, 7#4, 3600#12, 0#10, t60000, F64.zero⟩

/-- After INIT and REFRESH, at a label, with a given CTL value; the generator is told not to move. -/
def stateAt (p : Phase) (ctl : Word) : State where
  cfg := cfgOscHdmi
  eng := { Engine.reset 2 with
    phase := p, init := true, periphBase := 0x3F000000#32, freq := [f19M2, f216M], tgtIn := t60000, sel := held,
    stopFor := .selprog }
  dev := ⟨ctlOf ctl, ⟨3600#12, 0#10⟩, .input⟩
  env := ⟨[], [], [], [], [false], [0#32], 0⟩
  trace := []

/-- Right after reset with the same table and the generator of Program 2's start. -/
def fresh : State := State.resetWith cfgOscHdmi ⟨ctlOf 0x00000291#32, ⟨247#12, 760#10⟩, .clockAlt⟩

def presenting (s : State) (cmd : Word) (tgt : F64) (waits : Bool) : State :=
  { s with env := { s.env with caller := [.present cmd tgt waits] } }

/-- The next state, if there is one. -/
def nextOf : Host.Outcome State Fault Refusal → Option State
  | .next t => some t
  | _ => none

theorem next_of {o : Host.Outcome State Fault Refusal} (h : (nextOf o).isSome = true) : ∃ t, o = .next t := by
  cases o <;> simp_all [nextOf]

def isAccepted : Verdict → Bool
  | .accepted _ => true
  | .rejected _ => false

theorem accepted_of {v : Verdict} (h : isAccepted v = true) : ∃ e, v = .accepted e := by
  cases v <;> simp_all [isAccepted]

theorem someAccepted_of {mode : Numerics} {t : F64} {rows : List (Source × F64)}
    (h : rows.any (fun r => isAccepted (verdictOf mode t r)) = true) : SomeAccepted mode t rows := by
  obtain ⟨r, hr, hv⟩ := List.any_eq_true.1 h
  exact ⟨r, hr, accepted_of hv⟩

theorem noneAccepted_of {mode : Numerics} {t : F64} {rows : List (Source × F64)}
    (h : rows.all (fun r => !isAccepted (verdictOf mode t r)) = true) : ¬ SomeAccepted mode t rows := by
  rintro ⟨r, hr, e, he⟩
  have := List.all_eq_true.1 h r hr
  simp [he, isAccepted] at this

/-- The verdict's reason, N, DIVI, DIVF, actual and error. -/
def summary (v : Verdict) : Option (Nat × Nat × Nat × F64 × F64) :=
  match v with
  | .accepted e => some (e.n, e.divI, e.divF, e.actualHz, e.errHz)
  | .rejected _ => none

/-! ## Decoding -/

/-- D1 to D4. -/
theorem test_decode_commands :
    decode (.command 0x00000001#32 t60000) = .ok .init ∧ decode (.command 0x00000002#32 t60000) = .ok .refresh
      ∧ decode (.command 0x00000003#32 t60000) = .ok (.selprog t60000)
      ∧ decode (.command 0x00000004#32 t60000) = .ok .stop := by decide

/-- D5 to D9, and Program 2's raw word. -/
theorem test_decode_illegal_commands :
    [0x00000000#32, 0x00000005#32, 0x0000000F#32, 0x00000013#32, 0x80000001#32, 0x00000010#32].all
      (fun w => decode (.command w 0#64) = .error (.illegalCommand w)) = true := by decide

/-- E1, E14 (W4) and W5, bit by bit: 0x5A, DIVI, 00, DIVF. -/
theorem test_decode_wrDiv :
    decode (.write .div 0b01011010_000011110111_00_1011111000#32) = .ok (.wrDiv 247#12 760#10)
      ∧ decode (.write .div 0x5AFFF000#32) = .ok (.wrDiv 4095#12 0#10)
      ∧ decode (.write .div 0x5A0023FF#32) = .ok (.wrDiv 2#12 1023#10) := by decide

/-- W6, bit by bit: 0x5A, reserved, MASH, FLIP, BUSY, reserved, KILL, ENAB, SRC. -/
theorem test_decode_wrCtlEnable :
    decode (.write .ctl 0b01011010_0000000000000_01_0_0_0_0_1_0110#32) = .ok (.wrCtlEnable 6#4) := by decide

/-- T5 and W7. -/
theorem test_decode_wrCtlDisable :
    decode (.write .ctl 0b01011010_0000000000000_10_1_0_0_0_0_0110#32) = .ok (.wrCtlDisable 6#4 true 2#2)
      ∧ decode (.write .ctl 0x5A00070F#32) = .ok (.wrCtlDisable 15#4 true 3#2) := by decide

/-- R31, R68: no password, reserved bits set, KILL set, or another MASH with ENAB: none of the engine's words. -/
theorem test_decode_foreign_words :
    [0x00000211#32, 0x5B000211#32].all (fun w => decode (.write .ctl w) = .error (.noPassword w)) = true
      ∧ [0x5A000231#32, 0x5A000A11#32, 0x5A000411#32, 0x5A000040#32].all
        (fun w => decode (.write .ctl w) = .error (.notAnEngineForm w)) = true
      ∧ decode (.write .div 0x5A000400#32) = .error (.notAnEngineForm 0x5A000400#32) := by decide

/-- Table words with no address (assumption 9). -/
theorem test_decodeTableWord :
    decodeTableWord 32 0x00000001 = some .init ∧ decodeTableWord 32 0x00000003 = some (.selprog 0#64)
      ∧ decodeTableWord 32 0x5A0F72F8 = some (.wrDiv 247#12 760#10)
      ∧ decodeTableWord 32 0x5A000217 = some (.wrCtlEnable 7#4)
      ∧ decodeTableWord 32 0x5A000207 = some (.wrCtlDisable 7#4 false 1#2)
      ∧ decodeTableWord 32 0x00000005 = none := by decide

/-! ## WellFormed -/

/-- R91: the integer part is at least 2. -/
theorem test_illFormed_small_divider : (Instr.wrDiv 1#12 0#10).wf = false := by decide

/-- R91: 4095 admits no fraction. -/
theorem test_illFormed_large_divider : (Instr.wrDiv 4095#12 1#10).wf = false := by decide

/-- R91: the ends of the range. -/
theorem test_wellFormed_dividers :
    (Instr.wrDiv 2#12 0#10).wf = true ∧ (Instr.wrDiv 4094#12 1023#10).wf = true
      ∧ (Instr.wrDiv 4095#12 0#10).wf = true := by decide

/-! ## The ratio computation and the selection -/

/-- E1. -/
theorem test_eval_E1 :
    summary (evalCandidate .binary64 true f19M2 t77500)
      = some (253688, 247, 760, 0x40F2EBBEBD156ADC#64, 0x3FB42EA952400000#64) := by decide +kernel

/-- E1 under EXACT: the error is 2500/31711. -/
theorem test_eval_E1_exact :
    (evaluate .exact f19M2 t77500 (19200000 / 77500)).error = 2500 / 31711 := by decide +kernel

/-- E19 and E20: the carry. -/
theorem test_eval_carry :
    summary (evalCandidate .binary64 true 0x40A7FF8000000000#64 t1024)
        = some (3072, 3, 0, 0x408FFF5555555555#64, 0x3FB5555555556000#64)
      ∧ summary (evalCandidate .binary64 true 0x40A7FF0000000000#64 t1024)
        = some (3072, 3, 0, 0x408FFEAAAAAAAAAB#64, 0x3FC5555555555000#64) := by decide +kernel

/-- E21: a tie goes up. -/
theorem test_eval_tie :
    summary (evalCandidate .binary64 true 0x40A0010000000000#64 t1024)
      = some (2049, 2, 1, 0x408FFE003FF80100#64, 0x3FCFFC007FF00000#64) := by decide +kernel

/-- E13, E16, E25, E26, E27, E28. -/
theorem test_eval_reasons :
    (evalCandidate .binary64 true 0x409FFC0000000000#64 t1024).reason = .ratioBelowMin
      ∧ (evalCandidate .binary64 true 0x414FFE0020000000#64 t1024).reason = .ratioAboveMax
      ∧ (evalCandidate .binary64 true 0x7FE1CCF385EBC8A0#64 0x3DDB7CDFD9D7BDBB#64).reason = .ratioAboveMax
      ∧ (evalCandidate .binary64 true 0x0000000000000001#64 0x4202A05F20000000#64).reason = .ratioBelowMin
      ∧ (evalCandidate .binary64 true F64.zero t77500).reason = .noFrequency
      ∧ (evalCandidate .binary64 false F64.zero t77500).reason = .disabled := by decide +kernel

/-- E12 and E14: the bounds are accepted. -/
theorem test_eval_bounds :
    (summary (evalCandidate .binary64 true 0x40A0000000000000#64 t1024)).map (·.1) = some 2048
      ∧ (summary (evalCandidate .binary64 true 0x414FFE0000000000#64 t1024)).map (·.1) = some 4193280 := by
  decide +kernel

/-- L1 (least error), L2 (higher frequency), L4 (lowest index). -/
theorem test_select_order :
    (select .binary64 t77500 (withFreq oscHdmi [f19M2, f216M])).map (·.idx) = some 1
      ∧ (select .binary64 t60000 (withFreq oscHdmi [f19M2, f216M])).map (·.idx) = some 1
      ∧ (select .binary64 t60000 (withFreq oscHdmi [f19M2, f19M2])).map (·.idx) = some 0 := by decide +kernel

/-- L7: no candidate, with the reasons [4, 1, 4, 4]. -/
theorem test_select_none :
    (reasonsOf .binary64 t1000 (withFreq gk7 [f19M2, f1G, f500M, f216M])).map Reason.code = [4#3, 1#3, 4#3, 4#3]
      ∧ select .binary64 t1000 (withFreq gk7 [f19M2, f1G, f500M, f216M]) = none := by decide +kernel

/-! ## The commands -/

/-- I1. -/
theorem test_init_I1 :
    (nextOf (exec .init { fresh with env := { fresh.env with probe := [.known 0x3F000000#32], map := [.ok] } })).map
        (fun t => (t.eng.init, t.eng.periphBase, t.eng.resp, t.ctlAddr))
      = some (true, 0x3F000000#32, 0#32, 0x3F101070#32) := by decide

/-- I2 and I3. -/
theorem test_init_failures :
    (nextOf (exec .init { fresh with env := { fresh.env with probe := [.inconclusive] } })).map
        (fun t => (t.eng.init, t.eng.resp)) = some (false, 1#32)
      ∧ (nextOf (exec .init { fresh with env := { fresh.env with probe := [.known 0xFE000000#32], map := [.fail] } })).map
        (fun t => (t.eng.init, t.eng.resp)) = some (false, 2#32) := by decide

/-- M1 to M7. -/
theorem test_refresh_sanitizes :
    sanitize (.value f19M2) = f19M2 ∧ sanitize .unavailable = 0#64 ∧ sanitize (.value 0xBFF0000000000000#64) = 0#64
      ∧ sanitize (.value 0x8000000000000000#64) = 0#64 ∧ sanitize (.value 0x7FF0000000000000#64) = 0#64
      ∧ sanitize (.value 0x7FF8000000000000#64) = 0#64 ∧ sanitize (.value 1#64) = 1#64 := by decide +kernel

/-- R80's example. -/
theorem test_refresh_table :
    (nextOf (exec .refresh { fresh with
        cfg := cfgOf ⟨1#4, "OSC", true⟩ [⟨6#4, "PLLD", true⟩, ⟨7#4, "HDMI", true⟩],
        env := { fresh.env with meas := [.value f19M2, .unavailable, .value f216M] } })).map (fun t => t.eng.freq)
      = some [f19M2, 0#64, f216M] := by decide +kernel

/-- G1 and G7; G2 to G6. -/
theorem test_selprog_guards :
    [t60000, 0x7FF8000000000000#64].all
        (fun t => (nextOf (exec (.selprog t) fresh)).map (fun u => u.eng.resp) = some 4#32) = true
      ∧ [0x7FF8000000000000#64, 0x7FF0000000000000#64, 0#64, 0x8000000000000000#64, 0xC014000000000000#64].all
        (fun t => (nextOf (exec (.selprog t) (stateAt .p0 0#32))).map (fun u => (u.eng.resp, u.eng.target))
          = some (5#32, 0#64)) = true := by decide +kernel

/-- G9: HDMI is held, the stop sequence comes next. -/
theorem test_selprog_G9 :
    (nextOf (exec (.selprog t60000) (stateAt .p0 0#32))).map (fun t => (t.eng.phase, t.eng.sel, t.trace))
      = some (.s1, held, []) := by decide +kernel

/-- R102, with E30's target: everything cleared, RESP 3. -/
theorem test_selprog_none :
    (nextOf (exec (.selprog t1000) { stateAt .p0 0#32 with
        eng := { (stateAt .p0 0#32).eng with resValid := true, res := held } })).map
          (fun t => (t.eng.resp, t.eng.res, t.eng.reason)) = some (3#32, Selection.zero, [.ratioAboveMax, .ratioAboveMax]) := by
  decide +kernel

/-- T7. -/
theorem test_stop_T7 : (nextOf (exec .stop fresh)).map (fun t => (t.eng.resp, t.trace.length)) = some (4#32, 1) := by
  decide

/-- E6's divider word. -/
theorem test_wrDiv_E6 :
    (nextOf (exec (.wrDiv 3600#12 0#10) (stateAt .p1 0#32))).map (fun t => (t.dev.div, t.trace))
      = some (⟨3600#12, 0#10⟩, [.write 0x3F101074#32 0x5AE10000#32]) := by decide

/-- G9's enable word: BUSY is not written. -/
theorem test_wrCtlEnable_G9 :
    (nextOf (exec (.wrCtlEnable 7#4) (stateAt .p3 0x00000586#32))).map (fun t => (t.dev.ctl, t.trace))
      = some (⟨7#4, true, false, true, false, 1#2⟩, [.write 0x3F101070#32 0x5A000217#32]) := by decide

/-- T5's disable word. -/
theorem test_wrCtlDisable_T5 :
    (nextOf (exec (.wrCtlDisable 6#4 true 2#2) (stateAt .s2 0x00000596#32))).map (fun t => (t.dev.ctl, t.trace))
      = some (⟨6#4, false, false, true, true, 2#2⟩, [.write 0x3F101070#32 0x5A000506#32]) := by decide

/-- T6: the disable word from a value with KILL and the reserved bits set. -/
theorem test_disableWord_T6 : disableWord 0x00FFF8B3#32 = 0x5A000003#32 := by decide

/-- T4's timeout, with POLL_MAX reached; the poll goes on below it. -/
theorem test_poll_timeout :
    (poll { stateAt .s3 0x00000287#32 with eng := { (stateAt .s3 0#32).eng with pollCount := 2 } }).eng.phase = .s4
      ∧ (poll { stateAt .s3 0x00000287#32 with eng := { (stateAt .s3 0#32).eng with pollCount := 2 } }).eng.stopTimeout = true
      ∧ (poll (stateAt .s3 0x00000287#32)).trace = [.read 0x3F101070#32 0x00000287#32, .wait 2] := by decide

/-- W1, W2, W3. -/
theorem test_responses :
    { Engine.reset 0 with resValid := true, res := held }.resp = 0x00000720#32
      ∧ { Engine.reset 0 with resValid := true, stopTimeout := true, res := { held with src := 1#4 } }.resp = 0x00000130#32
      ∧ { Engine.reset 0 with status := .noSuitableSource }.resp = 0x00000003#32 := by decide

/-- R65, R66: the codes. -/
theorem test_codes :
    [Status.ok, .unsupportedPlatform, .hardwareUnavailable, .noSuitableSource, .notInitialized, .invalidTarget,
        .illegalCommand].map Status.code = [0#4, 1#4, 2#4, 3#4, 4#4, 5#4, 6#4]
      ∧ [Reason.accepted, .disabled, .noFrequency, .ratioBelowMin, .ratioAboveMax, .notEvaluated].map Reason.code
        = [0#3, 1#3, 2#3, 3#3, 4#3, 7#3] := by decide

/-- R61's literals. -/
theorem test_literals :
    (ProgramLine.selprog 77500).commands = [(3#32, t77500)] ∧ (ProgramLine.selprog 40000).commands = [(3#32, 0x40E3880000000000#64)]
      ∧ (ProgramLine.selprog 9600000).commands = [(3#32, 0x41624F8000000000#64)] := by decide +kernel

/-! ## Witnesses: states and operands that meet the hypotheses of the statements -/

/-- A program's start: IDLE with a command presented. -/
def idleWith (cmd : Word) (waits : Bool) : State := presenting (stateAt .idle 0x00000297#32) cmd t60000 waits

def withAct (a : CallerAct) (s : State) : State := { s with env := { s.env with caller := [a] } }

def probing (a : ProbeAnswer) (m : MapAnswer) : State :=
  { fresh with
    eng := { fresh.eng with phase := .i1 }
    env := { fresh.env with probe := [a], map := [m], busy := [false] } }

def uninit (p : Phase) : State := { stateAt p 0#32 with eng := { (stateAt p 0#32).eng with init := false } }

/-- The sources disabled: no candidate is accepted. -/
def noneEnabled : State := { stateAt .p0 0#32 with cfg := cfgOf ⟨1#4, "OSC", false⟩ [⟨7#4, "HDMI", false⟩] }

theorem inv_at (p : Phase) (ctl : Word) (pin : PinFunc)
    (h2 : p = .s2 → ctl = 0#32)
    (hd : p.disabled = true → (ctlOf ctl).enab = false ∧ (ctlOf ctl).kill = false)
    (hq : p.polled = true → (ctlOf ctl).busy = false)
    (hp : p.parked = true → pin = .input)
    (he : p = .p4 → ctl = 0x00000217#32) (acts : List CallerAct) :
    State.Inv { stateAt p ctl with
      dev := ⟨ctlOf ctl, ⟨3600#12, 0#10⟩, pin⟩, env := { (stateAt p ctl).env with caller := acts } } where
  freqLength := rfl
  reasonLength := rfl
  freqUsable := by intro f hf; simp [stateAt] at hf; rcases hf with rfl | rfl <;> decide
  baseAligned := (by decide : (0x3F000000#32).toNat % 4096 = 0)
  mapped := fun _ => rfl
  pollBound := Nat.zero_le _
  pollLeft := fun _ => (by decide : 0 < 3)
  resultOk := by intro h; cases h
  heldOk := fun _ => ⟨⟨⟨7#4, "HDMI", true⟩, rfl, rfl, rfl⟩, (by decide : 2 ≤ (3600#12).toNat ∧ ((3600#12).toNat = 4095 → 0#10 = 0#10))⟩
  readCurrent := by
    intro h
    rw [h2 h]
    exact (by decide : ctlSrcField 0#32 = (ctlOf 0#32).src ∧ ctlFlipField 0#32 = (ctlOf 0#32).flip
      ∧ ctlMashField 0#32 = (ctlOf 0#32).mash)
  disabled := hd
  quiet := fun h _ => hq h
  parked := hp
  programmed := fun _ => rfl
  enabled := by
    intro h
    rw [he h]
    exact (by decide : (ctlOf 0x00000217#32).src = 7#4 ∧ (ctlOf 0x00000217#32).enab = true
      ∧ (ctlOf 0x00000217#32).kill = false ∧ (ctlOf 0x00000217#32).flip = false ∧ (ctlOf 0x00000217#32).mash = 1#2)

theorem witness_StepKeepsInvariant :
    (∃ s t : State, s.Inv ∧ s.eng.phase = .p2 ∧ step s = .next t)
      ∧ ∃ s t : State, s.Inv ∧ s.eng.phase = .s2 ∧ step s = .next t :=
  ⟨⟨_, _, inv_at .p2 0x00000207#32 .input nofun (fun _ => by decide) (fun _ => by decide) (fun _ => rfl) nofun [],
      rfl, rfl⟩,
    ⟨_, _, inv_at .s2 0#32 .other (fun _ => rfl) nofun nofun nofun nofun [], rfl, rfl⟩⟩

theorem witness_EncodeOfDecodeIsIdentity :
    decode (.write .div 0x5A0F72F8#32) = .ok (.wrDiv 247#12 760#10)
      ∧ decode (.write .ctl 0x5A000217#32) = .ok (.wrCtlEnable 7#4)
      ∧ decode (.command 3#32 t60000) = .ok (.selprog t60000) ∧ decode (.command 1#32 t60000) = .ok .init := by decide

/-- The clauses exclude each other: 0, 1, 2, 3, 4, 5 and the greatest word fall under one each. -/
theorem witness_CommandWordsAreTheFourOpcodes :
    (0x00000001#32).toNat = 1 ∧ (0x00000002#32).toNat = 2 ∧ (0x00000003#32).toNat = 3 ∧ (0x00000004#32).toNat = 4
      ∧ (0x00000000#32).toNat = 0 ∧ 4 < (0x00000005#32).toNat ∧ 4 < (0xFFFFFFFF#32).toNat := by decide

theorem witness_PlacedWordIsRunNext :
    decodeTableWord 32 1 = some .init ∧ decodeTableWord 32 0x5A001000 = some (.wrDiv 1#12 0#10)
      ∧ decodeTableWord 32 0x5A000000 = some (.wrCtlDisable 0#4 false 0#2)
      ∧ decodeTableWord 96 (t60000.toNat * 2 ^ 32 + 3) = some (.selprog t60000) := by decide

theorem witness_StepRunsTheDecodedInstruction :
    (stateAt .p3 0#32).overrun = false
      ∧ (stateAt .p3 0#32).nextAction = .transfer (.write .ctl 0x5A000217#32)
      ∧ decode (.write .ctl 0x5A000217#32) = .ok (.wrCtlEnable 7#4) := by decide

theorem witness_EachLabelRunsItsInstruction :
    [Phase.i1, .f1, .p0, .t0, .s2, .p1, .p3].all
      (fun p => (stateAt p 0#32).overrun = false && (stateAt p 0#32).eng.phase = p) = true := by decide

theorem witness_AcceptanceEntersFirstLabel :
    (idleWith 3#32 true).eng.phase = .idle
      ∧ (idleWith 3#32 true).env.caller = [.present 3#32 t60000 true]
      ∧ decode (.command 3#32 t60000) = .ok (.selprog t60000) := by decide

theorem witness_IllegalCommandChangesStatusOnly :
    (idleWith 0#32 false).eng.phase = .idle
      ∧ (idleWith 0#32 false).env.caller = [.present 0#32 t60000 false] ∧ (0#32).toNat = 0
      ∧ (idleWith 5#32 true).env.caller = [.present 5#32 t60000 true] ∧ 4 < (5#32).toNat := by decide

theorem witness_IdleEngineWaits :
    (stateAt .idle 0#32).eng.phase = .idle ∧ (stateAt .idle 0#32).env.caller = []
      ∧ (withAct (.setPin .clockAlt) (stateAt .idle 0#32)).eng.phase = .idle
      ∧ (withAct (.setPin .clockAlt) (stateAt .idle 0#32)).env.caller = [.setPin .clockAlt] := by decide

/-- Both directions meet a case: a step that faults, and the same step with a caller that waits. -/
theorem witness_FaultIsExactlyOverrun :
    step (presenting (stateAt .s3 0#32) 1#32 0#64 false) = .fault .overrun
      ∧ ∃ t, step (presenting (stateAt .s3 0#32) 1#32 0#64 true) = .next t := ⟨rfl, _, rfl⟩

/-- I5. -/
theorem witness_RefusalIsExactlyMisalignedProbe :
    step (probing (.known 0x20000800#32) .ok) = .refused .probeBaseMisaligned
      ∧ ∃ t, step (probing (.known 0x20000000#32) .ok) = .next t := ⟨rfl, _, rfl⟩

theorem witness_InitFollowsProbeThenMap :
    (stateAt .i1 0#32).eng.init = true
      ∧ (probing .inconclusive .ok).eng.init = false ∧ (probing .inconclusive .ok).env.probeAnswer = .inconclusive
      ∧ (probing (.known 0xFFFFF000#32) .fail).eng.init = false
      ∧ (probing (.known 0xFFFFF000#32) .fail).env.probeAnswer = .known 0xFFFFF000#32
      ∧ (0xFFFFF000#32).toNat % 4096 = 0
      ∧ (probing (.known 0xFFFFF000#32) .fail).env.takeProbe.mapAnswer = .fail
      ∧ (probing (.known 0#32) .ok).env.probeAnswer = .known 0#32
      ∧ (0#32).toNat % 4096 = 0
      ∧ (probing (.known 0#32) .ok).env.takeProbe.mapAnswer = .ok := by decide

theorem witness_InitRefusesMisalignedBase :
    (probing (.known 0x00000FFF#32) .ok).eng.init = false
      ∧ (probing (.known 0x00000FFF#32) .ok).env.probeAnswer = .known 0x00000FFF#32
      ∧ (0x00000FFF#32).toNat % 4096 ≠ 0 := by decide

theorem witness_RefreshStoresEverySource :
    1 < fresh.cfg.sources.length
      ∧ ({ fresh.env with meas := [.unavailable, .value f216M] } : Env).meas[1]? = some (.value f216M) := by decide

/-- The least positive value, −0.0 and the infinity are the boundary cases. -/
theorem witness_SanitizeKeepsUsableValues :
    F64.isFinite 1#64 = true ∧ 0 < F64.toRat 1#64
      ∧ F64.isFinite 0x8000000000000000#64 = true ∧ F64.toRat 0x8000000000000000#64 ≤ 0
      ∧ F64.isFinite 0x7FF0000000000000#64 = false := by decide +kernel

/-- 1/3 is rounded, and 2^1024 overflows. -/
theorem witness_RoundingIsToNearestEven :
    (F64.ofRat (1 / 3)).isFinite = true ∧ F64.isFinite 0x3FD5555555555556#64 = true
      ∧ F64.toRat 0x3FD5555555555556#64 ≠ (F64.ofRat (1 / 3)).toRat
      ∧ (F64.ofRat (2 ^ 1024)).isFinite = false := by decide +kernel

theorem witness_RoundingFixesBinary64Values :
    F64.isFinite 0xFFEFFFFFFFFFFFFF#64 = true ∧ (0xFFEFFFFFFFFFFFFF#64 : F64) ≠ 0x8000000000000000#64 := by decide

theorem witness_ComparisonIsIeeeOrdered :
    F64.isNaN 0x7FF0000000000001#64 = true ∧ t1000.isFinite = true ∧ t1024.isFinite = true := by decide

/-- At both bounds, below and above (E12, E14, E13, E15), and a division that rounds to a finite value. -/
theorem witness_ReasonsFollowTheOrderOfTests :
    (F64.ofRat (f19M2.toRat / t77500.toRat)).isFinite = true
      ∧ f19M2.isPositive = true ∧ f19M2.isFinite = true ∧ F64.zero.isPositive = false
      ∧ division .binary64 0x40A0000000000000#64 t1024 = some 2
      ∧ division .binary64 0x414FFE0000000000#64 t1024 = some 4095
      ∧ (division .binary64 0x409FFC0000000000#64 t1024).any (fun d => d < 2) = true
      ∧ (division .binary64 0x414FFE0080000000#64 t1024).any (fun d => 4095 < d) = true := by decide +kernel

theorem witness_AcceptedDivisorIsInRange :
    (∃ e, evalCandidate .binary64 true 0x40A0000000000000#64 t1024 = .accepted e)
      ∧ ∃ e, evalCandidate .exact true 0x414FFE0000000000#64 t1024 = .accepted e :=
  ⟨accepted_of (by decide +kernel), accepted_of (by decide +kernel)⟩

theorem witness_FixedPointHasClosedForm : (0 : ℚ) ≤ 0 ∧ (0 : ℚ) ≤ 4095 := by decide +kernel

/-- 3071.5/1024 carries, 3071.25/1024 does not (R90). -/
theorem witness_CarryKeepsTheDivisor :
    (0 : ℚ) ≤ 6143 / 2048 ∧ (2047 / 2 : ℚ) ≤ (6143 / 2048 - ⌊(6143 / 2048 : ℚ)⌋₊) * 1024
      ∧ (0 : ℚ) ≤ 12285 / 4096 ∧ ((12285 / 4096 : ℚ) - ⌊(12285 / 4096 : ℚ)⌋₊) * 1024 < 2047 / 2 := by decide +kernel

theorem witness_IntermediatesAreExactInBinary64 :
    ∃ e, evalCandidate .binary64 true f19M2 t77500 = .accepted e := accepted_of (by decide +kernel)

/-- E25 and E26. -/
theorem witness_OverflowAndUnderflowAreRejected :
    F64.isFinite 0x7FE1CCF385EBC8A0#64 = true ∧ F64.isPositive 0x7FE1CCF385EBC8A0#64 = true
      ∧ F64.isFinite 0x3DDB7CDFD9D7BDBB#64 = true ∧ F64.isPositive 0x3DDB7CDFD9D7BDBB#64 = true
      ∧ (2 : ℚ) ^ 1024 - 2 ^ 970 ≤ F64.toRat 0x7FE1CCF385EBC8A0#64 / F64.toRat 0x3DDB7CDFD9D7BDBB#64
      ∧ F64.isFinite 1#64 = true ∧ F64.isPositive 1#64 = true
      ∧ F64.isFinite 0x4202A05F20000000#64 = true ∧ F64.isPositive 0x4202A05F20000000#64 = true
      ∧ F64.toRat 1#64 / F64.toRat 0x4202A05F20000000#64 ≤ 1 / (2 : ℚ) ^ 1075 := by decide +kernel

/-- E12 and E14: the ends of the range. -/
theorem witness_ExactDivisorHasZeroError :
    F64.isFinite 0x40A0000000000000#64 = true ∧ t1024.isFinite = true ∧ t1024.isPositive = true
      ∧ F64.toRat 0x40A0000000000000#64 = t1024.toRat * (2048 / 1024)
      ∧ F64.isFinite 0x414FFE0000000000#64 = true
      ∧ F64.toRat 0x414FFE0000000000#64 = t1024.toRat * (4193280 / 1024) := by decide +kernel

theorem witness_SelectFindsTheWinner :
    (select .binary64 t60000 (withFreq oscHdmi [f19M2, f216M])).isSome = true
      ∧ (withFreq oscHdmi [f19M2, f216M])[1]? = some (⟨7#4, "HDMI", true⟩, f216M) := by decide +kernel

/-- L2 and L3: two orders of one table, each with a winner. -/
theorem witness_SelectionIsIndependentOfOrder :
    (withFreq oscHdmi [f19M2, f216M]).Perm (withFreq oscHdmi [f19M2, f216M]).reverse
      ∧ (select .binary64 t60000 (withFreq oscHdmi [f19M2, f216M])).isSome = true
      ∧ (select .binary64 t60000 (withFreq oscHdmi [f19M2, f216M]).reverse).isSome = true :=
  ⟨(List.reverse_perm _).symm, by decide +kernel, by decide +kernel⟩

/-- +0.0 and +∞ are the boundary targets. -/
theorem witness_SelprogGuardsComeFirst :
    (uninit .p0).eng.init = false ∧ (stateAt .p0 0#32).eng.init = true
      ∧ F64.isFinite 0x7FF0000000000000#64 = false ∧ F64.toRat 0#64 ≤ 0 := by decide +kernel

theorem witness_NoSuitableSourceClearsResults :
    noneEnabled.eng.init = true ∧ t60000.isFinite = true ∧ 0 < t60000.toRat
      ∧ ¬ SomeAccepted noneEnabled.cfg.numerics t60000 noneEnabled.rows :=
  ⟨rfl, by decide, by decide +kernel, noneAccepted_of (by decide +kernel)⟩

theorem witness_SelprogHoldsTheWinner :
    (stateAt .p0 0#32).eng.init = true ∧ t60000.isFinite = true ∧ 0 < t60000.toRat
      ∧ SomeAccepted (stateAt .p0 0#32).cfg.numerics t60000 (stateAt .p0 0#32).rows :=
  ⟨rfl, by decide, by decide +kernel, someAccepted_of (by decide +kernel)⟩

theorem witness_WritesAreGatedByThePassword :
    (0x5B000211#32).toNat / 2 ^ 24 ≠ 0x5A ∧ (0x5A000211#32).toNat / 2 ^ 24 = 0x5A := by decide

/-- A step that reads CTL and one that writes DIV. -/
theorem witness_RegisterAddressesAreAlignedSums :
    (∃ s t : State, s.Inv ∧ step s = .next t ∧ ∃ v, t.trace = s.trace ++ [.read 0x3F101070#32 v])
      ∧ ∃ s t : State, s.Inv ∧ step s = .next t ∧ ∃ w, t.trace = s.trace ++ [.write 0x3F101074#32 w] :=
  ⟨⟨_, _, inv_at .s1 0x00000217#32 .other nofun nofun nofun nofun nofun [], rfl, 0x00000207#32, by decide⟩,
    ⟨_, _, inv_at .p1 0x00000207#32 .input nofun (fun _ => by decide) (fun _ => by decide) (fun _ => rfl) nofun [],
      rfl, 0x5AE10000#32, by decide⟩⟩

theorem witness_StopEntersTheStopSequence :
    (uninit .t0).eng.init = false ∧ (stateAt .t0 0#32).eng.init = true := by decide

theorem witness_DisableKeepsSourceFlipAndMash :
    (stateAt .s1 0x00000596#32).eng.phase = .s1 ∧ (stateAt .s1 0x00000596#32).env.presentsNow = false := by decide

/-- Not busy; busy at the bound; busy below it. -/
theorem witness_PollEndsOnNotBusyOrAtTheBound :
    (stateAt .s3 0#32).eng.phase = .s3 ∧ (stateAt .s3 0#32).env.presentsNow = false
      ∧ (stateAt .s3 0#32).dev.ctl.busy = false ∧ (stateAt .s3 0x00000287#32).dev.ctl.busy = true
      ∧ 2 + 1 = ((stateAt .s3 0x00000287#32).cfg.pollMax : ℕ)
      ∧ (stateAt .s3 0x00000287#32).eng.pollCount + 1 ≠ ((stateAt .s3 0x00000287#32).cfg.pollMax : ℕ) := by decide

theorem witness_WordlessStepsFollowTheirRules :
    [Phase.s4, .p2, .p4, .t1].all
      (fun p => !(stateAt p 0#32).env.presentsNow && (stateAt p 0#32).eng.phase = p) = true := by decide

theorem witness_ResponsesCarryTheFinalState :
    (∃ t, step (stateAt .t1 0#32) = .next t ∧ t.eng.phase = .idle)
      ∧ ∃ t, step (stateAt .p2 0#32) = .next t ∧ t.eng.phase ≠ .idle :=
  ⟨⟨_, rfl, by decide⟩, _, rfl, by decide⟩

theorem witness_StopEndsWithinThePollBound :
    (stateAt .t0 0x00000297#32).eng.phase = .t0 ∧ (stateAt .t0 0x00000297#32).eng.init = true
      ∧ (stateAt .t0 0x00000297#32).env.presentsNow = false := by decide

theorem witness_SelprogEndsWithTheWinnerProgrammed :
    (stateAt .p0 0#32).eng.phase = .p0 ∧ (stateAt .p0 0#32).eng.init = true
      ∧ (stateAt .p0 0#32).env.presentsNow = false ∧ (stateAt .p0 0#32).eng.tgtIn.isFinite = true
      ∧ 0 < (stateAt .p0 0#32).eng.tgtIn.toRat
      ∧ SomeAccepted (stateAt .p0 0#32).cfg.numerics (stateAt .p0 0#32).eng.tgtIn (stateAt .p0 0#32).rows :=
  ⟨rfl, rfl, by decide, by decide, by decide +kernel, someAccepted_of (by decide +kernel)⟩

/-- BUSY rises, and falls, in a step whose generator moves. -/
theorem witness_BusyFollowsItsLaw :
    (∃ t, step { stateAt .idle 0x00000217#32 with env := { Env.reset with busy := [true] } } = .next t
        ∧ t.dev.ctl.busy = true)
      ∧ (∃ t, step { stateAt .idle 0x00000287#32 with env := { Env.reset with busy := [true] } } = .next t
        ∧ t.dev.ctl.busy = false)
      ∧ (ctlOf 0x00000217#32).busy = false ∧ (ctlOf 0x00000287#32).busy = true
      ∧ { Env.reset with busy := [true] }.busyMove = true :=
  ⟨⟨_, rfl, by decide⟩, ⟨_, rfl, by decide⟩, by decide, by decide, by decide⟩

/-- A step from each label of the access table, and from one outside it. -/
theorem witness_AccessesAreThoseOfTheTable :
    [Phase.s1, .s2, .s3, .p1, .p3, .p2].all (fun p => (nextOf (step (stateAt p 0#32))).isSome) = true := by decide

theorem witness_WrittenWordsCarryPasswordAndNoReservedBit :
    (∃ t, step (stateAt .p1 0#32) = .next t ∧ t.trace = [] ++ [.write 0x3F101074#32 0x5AE10000#32])
      ∧ ∃ t, step (stateAt .p3 0#32) = .next t ∧ t.trace = [] ++ [.write 0x3F101070#32 0x5A000217#32] :=
  ⟨⟨_, rfl, by decide⟩, _, rfl, by decide⟩

/-- The park at S4, the outside world's change at IDLE, KILL and FLIP standing from before, and a CTL word written. -/
theorem witness_EngineNeverDrivesThePinNorKills :
    (∃ s t : State, s.Inv ∧ step s = .next t ∧ s.eng.phase = .s4 ∧ t.dev.pin ≠ s.dev.pin)
      ∧ (∃ s t : State, s.Inv ∧ step s = .next t ∧ s.eng.phase = .idle ∧ t.dev.pin ≠ s.dev.pin)
      ∧ (∃ s t : State, s.Inv ∧ step s = .next t ∧ t.dev.ctl.kill = true ∧ t.dev.ctl.flip = true)
      ∧ ∃ s t : State, s.Inv ∧ step s = .next t ∧ s.eng.phase ≠ .p1 ∧ t.trace = s.trace ++ [.write 0x3F101070#32 0x5A000217#32] :=
  ⟨⟨_, _, inv_at .s4 0x00000207#32 .clockAlt nofun (fun _ => by decide) (fun _ => by decide) nofun nofun [],
      rfl, rfl, by decide⟩,
    ⟨_, _, inv_at .idle 0x00000217#32 .input nofun nofun nofun nofun nofun [.setPin .clockAlt], rfl, rfl, by decide⟩,
    ⟨_, _, inv_at .idle 0x00000130#32 .input nofun nofun nofun nofun nofun [], rfl, rfl, by decide⟩,
    ⟨_, _, inv_at .p3 0x00000207#32 .input nofun (fun _ => by decide) (fun _ => by decide) (fun _ => rfl) nofun [],
      rfl, by decide, by decide⟩⟩

/-- One failing and one passing command. -/
theorem witness_ErrorsArePrecise :
    (∃ t, step (uninit .t0) = .next t ∧ t.eng.phase = .idle)
      ∧ ∃ t, step (stateAt .t0 0#32) = .next t ∧ t.eng.phase ≠ .idle :=
  ⟨⟨_, rfl, by decide⟩, _, rfl, by decide⟩

/-- Steps that change init, freq, resValid, res and status, and pollCount. -/
theorem witness_RegistersAreWrittenByTheirCommands :
    (∃ t, step (probing (.known 0#32) .ok) = .next t ∧ t.eng.init ≠ (probing (.known 0#32) .ok).eng.init)
      ∧ (∃ t, step { stateAt .f1 0#32 with env := { (stateAt .f1 0#32).env with meas := [.unavailable, .unavailable] } }
          = .next t ∧ t.eng.freq ≠ (stateAt .f1 0#32).eng.freq)
      ∧ (∃ t, step (stateAt .p4 0#32) = .next t ∧ t.eng.resValid ≠ (stateAt .p4 0#32).eng.resValid
          ∧ t.eng.res ≠ (stateAt .p4 0#32).eng.res)
      ∧ (∃ t, step (stateAt .s3 0#32) = .next t ∧ t.eng.pollCount ≠ (stateAt .s3 0#32).eng.pollCount)
      ∧ ∃ t, step (uninit .t0) = .next t ∧ t.eng.status ≠ (uninit .t0).eng.status :=
  ⟨⟨_, rfl, by decide⟩, ⟨_, rfl, by decide⟩, ⟨_, rfl, by decide, by decide⟩, ⟨_, rfl, by decide⟩, _, rfl, by decide⟩

/-- Two runs of S1 whose reads differ in every free bit (U12). -/
theorem witness_ReservedBitsHaveNoInfluence :
    (∃ t, run 1 (stateAt .s1 0x00000217#32) = .next t ∧ t.eng.ctlRead = 0x00000207#32)
      ∧ ∃ t, run 1 { stateAt .s1 0x00000217#32 with
          env := { (stateAt .s1 0x00000217#32).env with read := [0xFFFFFFFF#32] } } = .next t
        ∧ t.eng.ctlRead = 0xFFFFFA77#32 :=
  ⟨⟨_, rfl, by decide⟩, _, rfl, by decide⟩

end Sys2Proof.Tests
end

section
/-! The divisor of an accepted candidate (R87, R91, R92), and the comparison of binary64 patterns (R14). -/
namespace Sys2Proof

namespace Machine

/-- R92: the integer and the fraction rounded apart give the quotient times 1024 rounded at once. -/
theorem fixedPoint_eq_floor {d : ℚ} (hd : 0 ≤ d) : fixedPoint d = ⌊d * 1024 + 1 / 2⌋₊ := by
  have hfr : (0 : ℚ) ≤ (d - ⌊d⌋₊) * 1024 + 1 / 2 := by
    have hfloor := Nat.floor_le hd
    linarith
  have hsplit : d * 1024 + 1 / 2 = ((d - ⌊d⌋₊) * 1024 + 1 / 2) + ((⌊d⌋₊ * 1024 : ℕ) : ℚ) := by
    push_cast
    ring
  rw [hsplit, Nat.floor_add_natCast hfr, Nat.add_comm]
  simp [fixedPoint, roundHalfUp, Config.fracScale]

theorem fixedPoint_mem_range {d : ℚ} (hmin : 2 ≤ d) (hmax : d ≤ 4095) :
    2048 ≤ fixedPoint d ∧ fixedPoint d ≤ 4193280 := by
  have hd : 0 ≤ d := by linarith
  rw [fixedPoint_eq_floor hd]
  constructor
  · apply Nat.le_floor
    push_cast
    linarith
  · apply Nat.lt_succ_iff.mp
    rw [Nat.floor_lt (by linarith)]
    push_cast
    linarith

@[simp] theorem evaluate_n (mode : Numerics) (f t : F64) (d : ℚ) : (evaluate mode f t d).n = fixedPoint d := by
  cases mode <;> rfl

@[simp] theorem evaluate_divI (mode : Numerics) (f t : F64) (d : ℚ) :
    (evaluate mode f t d).divI = fixedPoint d / 1024 := by
  have h : (evaluate mode f t d).divI = fixedPoint d >>> 10 := by cases mode <;> rfl
  rw [h, Nat.shiftRight_eq_div_pow]

@[simp] theorem evaluate_divF (mode : Numerics) (f t : F64) (d : ℚ) :
    (evaluate mode f t d).divF = fixedPoint d % 1024 := by
  have h : (evaluate mode f t d).divF = fixedPoint d &&& 2 ^ 10 - 1 := by cases mode <;> rfl
  rw [h, Nat.and_two_pow_sub_one_eq_mod]

/-- R87: the two fields together denote N / 1024. -/
theorem ratioOf_div_mod (n : ℕ) : ratioOf (n / 1024) (n % 1024) = (n : ℚ) / 1024 := by
  have h : ((1024 * (n / 1024) + n % 1024 : ℕ) : ℚ) = n := by rw [Nat.div_add_mod]
  push_cast at h
  simp only [ratioOf, Config.fracScale]
  push_cast
  linarith

/-- What EvalCandidate can accept (R95): every test passed, and the evaluation is that of the division. -/
theorem evalCandidate_accepted {mode : Numerics} {enabled : Bool} {f t : F64} {e : Evaluation}
    (h : evalCandidate mode enabled f t = .accepted e) :
    enabled = true ∧ f.isPositive = true ∧ f.isFinite = true ∧
      ∃ d, division mode f t = some d ∧ 2 ≤ d ∧ d ≤ 4095 ∧ e = evaluate mode f t d := by
  unfold evalCandidate at h
  split at h
  · cases h
  next henabled =>
  split at h
  · cases h
  next hpositive =>
  split at h
  · cases h
  next hfinite =>
  split at h
  · cases h
  next d hdivision =>
  split at h
  · cases h
  next hmin =>
  split at h
  · cases h
  next hmax =>
  cases h
  exact ⟨by simpa using henabled, by simpa using hpositive, by simpa using hfinite, d, hdivision,
    not_lt.mp hmin, not_lt.mp hmax, rfl⟩

/-- Settles O24: N lies in [2048, 4193280] by its closed form, and the fields are N's quotient and remainder by 1024. -/
theorem acceptedDivisorIsInRange : Obligations.AcceptedDivisorIsInRange := by
  intro mode enabled f t e h
  obtain ⟨-, -, -, d, -, hmin, hmax, rfl⟩ := evalCandidate_accepted h
  obtain ⟨hlo, hhi⟩ := fixedPoint_mem_range hmin hmax
  have hlo' : (2048 : ℚ) ≤ fixedPoint d := by exact_mod_cast hlo
  have hhi' : (fixedPoint d : ℚ) ≤ 4193280 := by exact_mod_cast hhi
  simp only [evaluate_n, evaluate_divI, evaluate_divF, ratioOf_div_mod]
  refine ⟨hlo, hhi, ?_, ?_, ?_, ?_, ?_, ?_, ?_⟩
  · omega
  · omega
  · omega
  · omega
  · omega
  · linarith
  · linarith

end Machine

theorem F64.isNaN_of_isFinite {x : F64} (h : x.isFinite = true) : x.isNaN = false := by
  simp_all [F64.isFinite, F64.isNaN]

theorem F64.isInf_of_isFinite {x : F64} (h : x.isFinite = true) : x.isInf = false := by
  simp_all [F64.isFinite, F64.isInf]

theorem F64.lt_of_isNaN {x y : F64} (h : x.isNaN = true ∨ y.isNaN = true) : F64.lt x y = false := by
  simp [F64.lt, h]

theorem F64.lt_iff_toRat {x y : F64} (hx : x.isFinite = true) (hy : y.isFinite = true) :
    F64.lt x y = true ↔ x.toRat < y.toRat := by
  simp [F64.lt, F64.isNaN_of_isFinite, F64.isInf_of_isFinite, hx, hy]

theorem F64.inf_class : F64.inf.isNaN = false ∧ F64.inf.isInf = true ∧ F64.inf.sign = false := by decide

theorem F64.lt_inf {x : F64} (hx : x.isFinite = true) : F64.lt x F64.inf = true := by
  simp [F64.lt, F64.isNaN_of_isFinite, F64.isInf_of_isFinite, hx, F64.inf_class]

theorem F64.not_inf_lt {x : F64} (hx : x.isFinite = true) : F64.lt F64.inf x = false := by
  simp [F64.lt, F64.isNaN_of_isFinite hx, F64.inf_class]

/-- Settles O22, by the classes of the two operands: NaN, finite, +∞. -/
theorem comparisonIsIeeeOrdered : Obligations.ComparisonIsIeeeOrdered :=
  fun _ _ => ⟨F64.lt_of_isNaN, F64.lt_iff_toRat, fun hx => ⟨F64.lt_inf hx, F64.not_inf_lt hx⟩⟩

end Sys2Proof
end

section
/-! Rounding to binary64 (R13, R58, R85). A magnitude (a pattern's low 63 bits) numbers the finite values' absolute values in
their order; rounding multiplies |x| by 2^1074, finds the spacing 2^k of the values around it and rounds to a multiple of that. -/
namespace Sys2Proof

/-! ### Rounding a quotient of naturals to an integer -/

theorem roundDivEven_cases (a b : ℕ) :
    (2 * (a % b) < b ∧ roundDivEven a b = a / b)
      ∨ (b < 2 * (a % b) ∧ roundDivEven a b = a / b + 1)
      ∨ (2 * (a % b) = b ∧ roundDivEven a b = a / b + a / b % 2) := by
  unfold roundDivEven
  split
  next hlt => exact .inl ⟨hlt, rfl⟩
  split
  next _ hgt => exact .inr (.inl ⟨hgt, rfl⟩)
  next hge hle => exact .inr (.inr ⟨by omega, rfl⟩)

theorem roundDivEven_le {a b c : ℕ} (hb : 0 < b) (h : a < c * b) : roundDivEven a b ≤ c := by
  have hdiv : a / b < c := (Nat.div_lt_iff_lt_mul hb).mpr h
  obtain ⟨-, hround⟩ | ⟨-, hround⟩ | ⟨-, hround⟩ := roundDivEven_cases a b <;> omega

theorem le_roundDivEven {a b c : ℕ} (hb : 0 < b) (h : c * b ≤ a) : c ≤ roundDivEven a b := by
  have hdiv : c ≤ a / b := (Nat.le_div_iff_mul_le hb).mpr h
  obtain ⟨-, hround⟩ | ⟨-, hround⟩ | ⟨-, hround⟩ := roundDivEven_cases a b <;> omega

/-- The rounded quotient is within one half of the quotient, and exactly one half away only where it is even. -/
theorem roundDivEven_within_half {a b : ℕ} (hb : 0 < b) :
    2 * |(roundDivEven a b * b : ℤ) - a| ≤ b
      ∧ (2 * |(roundDivEven a b * b : ℤ) - a| = b → roundDivEven a b % 2 = 0) := by
  have ha : (a / b : ℕ) * (b : ℤ) + (a % b : ℕ) = a := by exact_mod_cast Nat.div_add_mod' a b
  have hr : a % b < b := Nat.mod_lt a hb
  have hdown : |((a / b : ℕ) * b : ℤ) - a| = (a % b : ℕ) := by
    rw [← ha, sub_add_cancel_left, abs_neg, Nat.abs_cast]
  have hup : |((a / b + 1 : ℕ) * b : ℤ) - a| = b - (a % b : ℕ) := by
    rw [Nat.cast_succ, add_one_mul, ← ha, add_sub_add_left_eq_sub, abs_of_nonneg (by omega)]
  obtain ⟨hlt, hround⟩ | ⟨hgt, hround⟩ | ⟨htie, hround⟩ := roundDivEven_cases a b
  · rw [hround, hdown]
    omega
  · rw [hround, hup]
    omega
  · obtain heven | hodd := Nat.mod_two_eq_zero_or_one (a / b)
    · rw [hround, heven, Nat.add_zero, hdown]
      omega
    · rw [hround, hodd, hup]
      omega

namespace F64

/-! ### Patterns, magnitudes and the values they denote -/

/-- A pattern without its sign bit. -/
def magnitude (x : F64) : ℕ := x.toNat % 2 ^ 63

/-- The absolute value that a magnitude denotes, in units of 2^-1074. -/
def unitsOf (m : ℕ) : ℕ :=
  if m / 2 ^ 52 = 0 then m % 2 ^ 52 else (2 ^ 52 + m % 2 ^ 52) * 2 ^ (m / 2 ^ 52 - 1)

theorem unitsPerOne_eq : unitsPerOne = 2 ^ 1074 := by
  unfold unitsPerOne
  rfl

theorem expo_eq (x : F64) : x.expo = x.magnitude / 2 ^ 52 := by
  unfold expo magnitude
  omega

theorem frac_eq (x : F64) : x.frac = x.magnitude % 2 ^ 52 := by
  unfold frac magnitude
  omega

theorem units_eq (x : F64) : x.units = unitsOf x.magnitude := by
  rw [units, unitsOf, expo_eq, frac_eq]

theorem isFinite_iff (x : F64) : x.isFinite = true ↔ x.magnitude < 2047 * 2 ^ 52 := by
  have hlt : x.magnitude < 2 ^ 63 := Nat.mod_lt _ (by decide)
  rw [isFinite, expo_eq, bne_iff_ne]
  omega

theorem toNat_eq (x : F64) : x.toNat = (if x.sign then 2 ^ 63 else 0) + x.magnitude := by
  have hlt := x.isLt
  simp only [sign, BitVec.msb_eq_decide, magnitude, decide_eq_true_eq]
  split <;> omega

theorem eq_of_sign_of_magnitude {x y : F64} (hs : x.sign = y.sign) (hm : x.magnitude = y.magnitude) : x = y := by
  apply BitVec.eq_of_toNat_eq
  rw [toNat_eq x, toNat_eq y, hs, hm]

/-- R58: sign and magnitude of a finite value. -/
theorem toRat_eq {x : F64} (hx : x.isFinite = true) :
    x.toRat = if x.sign then -((unitsOf x.magnitude : ℚ) / 2 ^ 1074) else (unitsOf x.magnitude : ℚ) / 2 ^ 1074 := by
  have hone : (unitsPerOne : ℚ) = 2 ^ 1074 := by rw [unitsPerOne_eq, Nat.cast_pow, Nat.cast_ofNat]
  rw [toRat, if_pos hx, Rat.mkRat_eq_div, units_eq, hone]
  split
  · rw [Int.cast_neg, Int.cast_natCast, neg_div]
  · rw [Int.cast_natCast]

theorem abs_toRat {x : F64} (hx : x.isFinite = true) : |x.toRat| = (unitsOf x.magnitude : ℚ) / 2 ^ 1074 := by
  have hnonneg : (0 : ℚ) ≤ (unitsOf x.magnitude : ℚ) / 2 ^ 1074 := by positivity
  rw [toRat_eq hx]
  split
  · rw [abs_neg, abs_of_nonneg hnonneg]
  · exact abs_of_nonneg hnonneg

theorem toRat_zero : toRat zero = 0 := by
  have hunits : unitsOf (magnitude zero) = 0 := by decide
  rw [← abs_eq_zero, abs_toRat (by decide), hunits, Nat.cast_zero, zero_div]

/-- `k·2^52 + c` denotes `c` steps of `2^k`, for subnormal counts at k = 0, for normal counts, and for the count 2^53, which
carries into the exponent. -/
theorem unitsOf_steps {k c : ℕ} (hc : c ≤ 2 ^ 53) (hk : k = 0 ∨ 2 ^ 52 ≤ c) :
    unitsOf (k * 2 ^ 52 + c) = c * 2 ^ k := by
  obtain hsub | hnormal | hcarry : c < 2 ^ 52 ∨ (2 ^ 52 ≤ c ∧ c < 2 ^ 53) ∨ c = 2 ^ 53 := by omega
  · obtain rfl : k = 0 := by omega
    rw [unitsOf, if_pos (by omega)]
    omega
  · have hexpo : (k * 2 ^ 52 + c) / 2 ^ 52 = k + 1 := by omega
    have hfrac : 2 ^ 52 + (k * 2 ^ 52 + c) % 2 ^ 52 = c := by omega
    rw [unitsOf, hexpo, hfrac, if_neg (Nat.succ_ne_zero k), Nat.add_sub_cancel]
  · have hexpo : (k * 2 ^ 52 + c) / 2 ^ 52 = k + 2 := by omega
    have hfrac : (k * 2 ^ 52 + c) % 2 ^ 52 = 0 := by omega
    rw [unitsOf, hexpo, hfrac, if_neg (Nat.succ_ne_zero _), hcarry]
    simp only [Nat.add_zero, Nat.add_succ_sub_one]
    ring

theorem exists_steps (m : ℕ) : ∃ k c, m = k * 2 ^ 52 + c ∧ c < 2 ^ 53 ∧ (k = 0 ∨ 2 ^ 52 ≤ c) := by
  refine ⟨m / 2 ^ 52 - 1, m - (m / 2 ^ 52 - 1) * 2 ^ 52, ?_⟩
  omega

theorem unitsOf_strictMono : StrictMono unitsOf := by
  apply strictMono_nat_of_lt_succ
  intro m
  obtain ⟨k, c, rfl, hc, hk⟩ := exists_steps m
  rw [unitsOf_steps hc.le hk, Nat.add_assoc, unitsOf_steps hc (hk.imp_right Nat.le_succ_of_le)]
  exact Nat.mul_lt_mul_of_pos_right (Nat.lt_succ_self c) (by positivity)

/-- From 2^(k+52) units on, the values are multiples of 2^k units. -/
theorem dvd_unitsOf_or_lt (k m : ℕ) : 2 ^ k ∣ unitsOf m ∨ (k ≠ 0 ∧ unitsOf m < 2 ^ 52 * 2 ^ k) := by
  obtain ⟨j, c, rfl, hc, hj⟩ := exists_steps m
  rw [unitsOf_steps hc.le hj]
  obtain hle | hlt := le_or_gt k j
  · exact .inl ((pow_dvd_pow 2 hle).mul_left c)
  · refine .inr ⟨by omega, ?_⟩
    calc c * 2 ^ j < 2 ^ 53 * 2 ^ j := Nat.mul_lt_mul_of_pos_right hc (by positivity)
      _ = 2 ^ 52 * 2 ^ (j + 1) := by ring
      _ ≤ 2 ^ 52 * 2 ^ k := Nat.mul_le_mul_left _ (Nat.pow_le_pow_right (by decide) hlt)

/-! ### What rounding finds -/

/-- `c` steps of `2^k` round `v`, where the values around `v` are `2^k` units apart. -/
structure Rounds (v : ℚ) (k c : ℕ) : Prop where
  half : 2 * |(c * 2 ^ k : ℚ) - v| ≤ 2 ^ k
  tie : 2 * |(c * 2 ^ k : ℚ) - v| = 2 ^ k → c % 2 = 0
  count_le : c ≤ 2 ^ 53
  lt : v < 2 ^ 53 * 2 ^ k
  normal : k = 0 ∨ (2 ^ 52 ≤ c ∧ 2 ^ 52 * 2 ^ k ≤ v)

theorem Rounds.units {v : ℚ} {k c : ℕ} (h : Rounds v k c) : unitsOf (k * 2 ^ 52 + c) = c * 2 ^ k :=
  unitsOf_steps h.count_le (h.normal.imp_right And.left)

/-- A multiple of the step is no nearer. -/
theorem Rounds.nearest_multiple {v : ℚ} {k c : ℕ} (h : Rounds v k c) {j : ℕ} (hj : j ≠ c) :
    |(c * 2 ^ k : ℚ) - v| ≤ |(j * 2 ^ k : ℚ) - v|
      ∧ (|(c * 2 ^ k : ℚ) - v| = |(j * 2 ^ k : ℚ) - v| → c % 2 = 0) := by
  have hapart : (2 : ℚ) ^ k ≤ |(j * 2 ^ k : ℚ) - c * 2 ^ k| := by
    have hone : (1 : ℚ) ≤ |(j : ℚ) - c| := by
      exact_mod_cast Int.one_le_abs (sub_ne_zero.mpr (Nat.cast_injective.ne hj))
    rw [← sub_mul, abs_mul, abs_of_pos (by positivity : (0 : ℚ) < 2 ^ k)]
    exact le_mul_of_one_le_left (by positivity) hone
  have htriangle := abs_sub_le (j * 2 ^ k : ℚ) v (c * 2 ^ k)
  rw [abs_sub_comm v] at htriangle
  have hhalf := h.half
  refine ⟨by linarith, fun heq => h.tie ?_⟩
  linarith

/-- No value is nearer, and one as near only where the count is even. A value that is no multiple of the step lies below
2^(k+52) units, which is a multiple between it and `v`. -/
theorem Rounds.nearest {v : ℚ} {k c : ℕ} (h : Rounds v k c) {m : ℕ} (hm : unitsOf m ≠ c * 2 ^ k) :
    |(c * 2 ^ k : ℚ) - v| ≤ |(unitsOf m : ℚ) - v|
      ∧ (|(c * 2 ^ k : ℚ) - v| = |(unitsOf m : ℚ) - v| → c % 2 = 0) := by
  obtain ⟨j, hj⟩ | ⟨hk, hlt⟩ := dvd_unitsOf_or_lt k m
  · have hunits : (unitsOf m : ℚ) = j * 2 ^ k := by
      rw [hj]
      push_cast
      ring
    rw [hunits]
    refine h.nearest_multiple fun hjc => hm ?_
    rw [hj, hjc, Nat.mul_comm]
  · obtain ⟨-, hv⟩ := h.normal.resolve_left hk
    have hbinade : |(c * 2 ^ k : ℚ) - v| ≤ v - 2 ^ 52 * 2 ^ k := by
      have hle : |(c * 2 ^ k : ℚ) - v| ≤ |((2 ^ 52 : ℕ) * 2 ^ k : ℚ) - v| := by
        obtain heq | hne := eq_or_ne (2 ^ 52) c
        · rw [heq]
        · exact (h.nearest_multiple hne).1
      rwa [Nat.cast_pow, Nat.cast_ofNat, abs_sub_comm (2 ^ 52 * 2 ^ k), abs_of_nonneg (sub_nonneg.mpr hv)] at hle
    have hstrict : |(c * 2 ^ k : ℚ) - v| < |(unitsOf m : ℚ) - v| := by
      have hlt' : (unitsOf m : ℚ) < 2 ^ 52 * 2 ^ k := by exact_mod_cast hlt
      calc |(c * 2 ^ k : ℚ) - v| ≤ v - 2 ^ 52 * 2 ^ k := hbinade
        _ < v - unitsOf m := sub_lt_sub_left hlt' v
        _ ≤ |(unitsOf m : ℚ) - v| := by
          rw [abs_sub_comm]
          exact le_abs_self _
    exact ⟨hstrict.le, fun heq => absurd heq hstrict.ne⟩

/-- The rounded magnitude is that of +∞ or above exactly from halfway between the greatest finite value, 2^53 - 1 steps of
2^2045 units, and the next multiple of that step. -/
theorem Rounds.overflow_iff {v : ℚ} {k c : ℕ} (h : Rounds v k c) :
    2047 * 2 ^ 52 ≤ k * 2 ^ 52 + c ↔ (2 ^ 54 - 1) * 2 ^ 2044 ≤ v := by
  obtain ⟨hhalf, htie, hcount, hbelow, hnormal⟩ := h
  have hlow : k ≤ 2044 → (2 : ℚ) ^ k ≤ 2 ^ 2044 := pow_le_pow_right₀ one_le_two
  have hhigh : 2046 ≤ k → 4 * (2 : ℚ) ^ 2044 ≤ 2 ^ k := fun hk =>
    calc 4 * (2 : ℚ) ^ 2044 = 2 ^ 2 * 2 ^ 2044 := by norm_num only
      _ = 2 ^ (2 + 2044) := (pow_add 2 2 2044).symm
      _ ≤ 2 ^ k := pow_le_pow_right₀ one_le_two hk
  have htop : k = 2045 → (2 : ℚ) ^ k = 2 * 2 ^ 2044 := by
    rintro rfl
    exact pow_succ' 2 2044
  have hpos : (0 : ℚ) < 2 ^ 2044 := by positivity
  generalize (2 : ℚ) ^ 2044 = s at *
  generalize (2 : ℚ) ^ k = w at *
  obtain hk | hk | hk : k ≤ 2044 ∨ k = 2045 ∨ 2046 ≤ k := by omega
  · have hws := hlow hk
    apply iff_of_false
    · omega
    · linarith
  · obtain rfl := htop hk
    obtain rfl | rfl | hlt : c = 2 ^ 53 ∨ c = 2 ^ 53 - 1 ∨ c + 2 ≤ 2 ^ 53 := by omega
    · have hdist : |((2 ^ 53 : ℕ) * (2 * s) : ℚ) - v| ≤ s := by linarith
      have hv := (abs_le.mp hdist).2
      push_cast at hv
      apply iff_of_true
      · omega
      · linarith
    · have hne : |((2 ^ 53 - 1 : ℕ) * (2 * s) : ℚ) - v| ≠ s := fun heq => absurd (htie (by rw [heq])) (by decide)
      have hdist : |((2 ^ 53 - 1 : ℕ) * (2 * s) : ℚ) - v| < s := lt_of_le_of_ne (by linarith) hne
      have hv := (abs_lt.mp hdist).1
      push_cast at hv
      apply iff_of_false
      · omega
      · linarith
    · have hdist : |(c * (2 * s) : ℚ) - v| ≤ s := by linarith
      have hv := (abs_le.mp hdist).1
      have hc : (c : ℚ) + 2 ≤ 2 ^ 53 := by exact_mod_cast hlt
      have hcs : ((c : ℚ) + 2) * s ≤ 2 ^ 53 * s := mul_le_mul_of_nonneg_right hc hpos.le
      apply iff_of_false
      · omega
      · linarith
  · obtain ⟨hc, hv⟩ := hnormal.resolve_left (by omega)
    have hws := hhigh hk
    apply iff_of_true
    · omega
    · linarith

theorem log2_step_bounds (n : ℕ) :
    n < 2 ^ 53 * 2 ^ (n.log2 - 52) ∧ (n.log2 - 52 ≠ 0 → 2 ^ 52 * 2 ^ (n.log2 - 52) ≤ n) := by
  constructor
  · calc n < 2 ^ (n.log2 + 1) := Nat.lt_log2_self
      _ ≤ 2 ^ (53 + (n.log2 - 52)) := Nat.pow_le_pow_right (by decide) (by omega)
      _ = 2 ^ 53 * 2 ^ (n.log2 - 52) := pow_add ..
  · intro hk
    have hn : n ≠ 0 := by
      rintro rfl
      exact hk rfl
    calc 2 ^ 52 * 2 ^ (n.log2 - 52) = 2 ^ (52 + (n.log2 - 52)) := (pow_add ..).symm
      _ = 2 ^ n.log2 := by rw [Nat.add_sub_cancel' (by omega)]
      _ ≤ n := Nat.log2_self_le hn

theorem rounds_roundDivEven {a q k : ℕ} (hq : 0 < q) (hbelow : a / q < 2 ^ 53 * 2 ^ k)
    (habove : k ≠ 0 → 2 ^ 52 * 2 ^ k ≤ a / q) : Rounds (a / q) k (roundDivEven a (q * 2 ^ k)) := by
  have hq' : (0 : ℚ) < q := Nat.cast_pos.mpr hq
  have hb : 0 < q * 2 ^ k := by positivity
  have hlt : a < 2 ^ 53 * (q * 2 ^ k) := by
    rw [mul_left_comm, mul_comm]
    exact (Nat.div_lt_iff_lt_mul hq).mp hbelow
  have hle (hk : k ≠ 0) : 2 ^ 52 * (q * 2 ^ k) ≤ a := by
    rw [mul_left_comm, mul_comm]
    exact (Nat.le_div_iff_mul_le hq).mp (habove hk)
  obtain ⟨hhalf, htie⟩ := roundDivEven_within_half (a := a) hb
  have hcount := roundDivEven_le hb hlt
  have hnormal (hk : k ≠ 0) := le_roundDivEven hb (hle hk)
  generalize roundDivEven a (q * 2 ^ k) = c at *
  have hscale : 2 * |(c * 2 ^ k : ℚ) - a / q| * q = (2 * |(c * (q * 2 ^ k : ℕ) : ℤ) - a| : ℤ) := by
    push_cast
    rw [mul_assoc, ← abs_of_pos hq', ← abs_mul, abs_of_pos hq']
    congr 2
    field_simp
  have hstep : (2 ^ k : ℚ) * q = (q * 2 ^ k : ℕ) := by
    push_cast
    ring
  refine ⟨?_, fun heq => htie ?_, hcount, ?_, ?_⟩
  · apply le_of_mul_le_mul_right _ hq'
    rw [hscale, hstep]
    exact_mod_cast hhalf
  · have heq' := congrArg (· * (q : ℚ)) heq
    simp only [hscale, hstep] at heq'
    exact_mod_cast heq'
  · rw [div_lt_iff₀ hq', mul_assoc, hstep]
    exact_mod_cast hlt
  · obtain hk | hk := eq_or_ne k 0
    · exact .inl hk
    · refine .inr ⟨hnormal hk, ?_⟩
      rw [le_div_iff₀ hq', mul_assoc, hstep]
      exact_mod_cast hle hk

/-- `roundMagnitude` rounds p / q, in units of 2^-1074, and caps the result at +∞. -/
theorem roundMagnitude_spec (p : ℕ) {q : ℕ} (hq : 0 < q) :
    ∃ k c, Rounds (p / q * 2 ^ 1074) k c ∧ roundMagnitude p q = min (k * 2 ^ 52 + c) (2047 * 2 ^ 52) := by
  have hv : (p / q * 2 ^ 1074 : ℚ) = (p * unitsPerOne : ℕ) / q := by
    rw [unitsPerOne_eq, Nat.cast_mul, Nat.cast_pow, Nat.cast_ofNat, div_mul_eq_mul_div]
  obtain ⟨hbelow, habove⟩ := log2_step_bounds (p * unitsPerOne / q)
  exact ⟨_, _, hv ▸ rounds_roundDivEven hq hbelow habove, rfl⟩

/-! ### The pattern of a rounded number -/

theorem roundMagnitude_le (p q : ℕ) : roundMagnitude p q ≤ 2047 * 2 ^ 52 := Nat.min_le_right ..

theorem toNat_ofRat (x : ℚ) :
    (ofRat x).toNat = (if x < 0 then 2 ^ 63 else 0) + roundMagnitude x.num.natAbs x.den := by
  have hle := roundMagnitude_le x.num.natAbs x.den
  rw [ofRat, BitVec.toNat_ofNat, Nat.mod_eq_of_lt]
  split <;> omega

theorem magnitude_ofRat (x : ℚ) : (ofRat x).magnitude = roundMagnitude x.num.natAbs x.den := by
  have hle := roundMagnitude_le x.num.natAbs x.den
  rw [magnitude, toNat_ofRat]
  split <;> omega

theorem sign_ofRat (x : ℚ) : (ofRat x).sign = decide (x < 0) := by
  have hle := roundMagnitude_le x.num.natAbs x.den
  rw [sign, BitVec.msb_eq_decide, toNat_ofRat, decide_eq_decide]
  split
  next hneg => exact iff_of_true (by omega) hneg
  next hpos => exact iff_of_false (by omega) hpos

/-- |x| in units of 2^-1074. -/
def scaled (x : ℚ) : ℚ := |x| * 2 ^ 1074

theorem ofRat_rounds (x : ℚ) :
    ∃ k c, Rounds (scaled x) k c ∧ (ofRat x).magnitude = min (k * 2 ^ 52 + c) (2047 * 2 ^ 52) := by
  have habs : |x| = x.num.natAbs / x.den := by
    rw [Nat.cast_natAbs, Int.cast_abs]
    conv_lhs => rw [← Rat.num_div_den x, abs_div, Nat.abs_cast]
  rw [scaled, habs, magnitude_ofRat]
  exact roundMagnitude_spec _ x.den_pos

theorem overflowThreshold_eq : ((2 ^ 54 - 1) * 2 ^ 2044 : ℚ) = (2 ^ 1024 - 2 ^ 970) * 2 ^ 1074 := by
  have hmax : (2 : ℚ) ^ 1024 = 2 ^ 54 * 2 ^ 970 := pow_add 2 54 970
  have hunit : (2 : ℚ) ^ 2044 = 2 ^ 970 * 2 ^ 1074 := pow_add 2 970 1074
  rw [hmax, hunit, sub_one_mul, sub_mul, mul_assoc]

/-- IEEE 754's overflow threshold: the greatest finite value and half a step more. -/
theorem isFinite_ofRat_eq_false_iff (x : ℚ) : (ofRat x).isFinite = false ↔ (2 : ℚ) ^ 1024 - 2 ^ 970 ≤ |x| := by
  obtain ⟨k, c, hrounds, hmag⟩ := ofRat_rounds x
  calc (ofRat x).isFinite = false ↔ 2047 * 2 ^ 52 ≤ k * 2 ^ 52 + c := by
        rw [← Bool.not_eq_true, isFinite_iff, hmag]
        omega
    _ ↔ (2 ^ 54 - 1) * 2 ^ 2044 ≤ scaled x := hrounds.overflow_iff
    _ ↔ (2 : ℚ) ^ 1024 - 2 ^ 970 ≤ |x| := by
        rw [overflowThreshold_eq, scaled, mul_le_mul_iff_left₀ (by positivity)]

theorem ofRat_rounds_of_isFinite {x : ℚ} (h : (ofRat x).isFinite = true) :
    ∃ k c, Rounds (scaled x) k c ∧ (ofRat x).magnitude = k * 2 ^ 52 + c := by
  obtain ⟨k, c, hrounds, hmag⟩ := ofRat_rounds x
  rw [isFinite_iff] at h
  exact ⟨k, c, hrounds, by omega⟩

theorem abs_sub_abs_eq {x : F64} (hx : x.isFinite = true) (r : ℚ) :
    |(|x.toRat| - |r|)| = |(unitsOf x.magnitude : ℚ) - scaled r| / 2 ^ 1074 := by
  have hpos : (0 : ℚ) < 2 ^ 1074 := by positivity
  rw [abs_toRat hx, scaled, eq_div_iff hpos.ne', ← abs_of_pos hpos, ← abs_mul, abs_of_pos hpos, sub_mul,
    div_mul_cancel₀ _ hpos.ne']

/-- A number and its rounding have one sign, so their distance is that of their absolute values. -/
theorem abs_ofRat_sub {x : ℚ} (h : (ofRat x).isFinite = true) :
    |(ofRat x).toRat - x| = |(|(ofRat x).toRat| - |x|)| := by
  have hnonneg : (0 : ℚ) ≤ (unitsOf (ofRat x).magnitude : ℚ) / 2 ^ 1074 := by positivity
  rw [abs_toRat h, toRat_eq h, sign_ofRat]
  obtain hx | hx := lt_or_ge x 0
  · rw [if_pos (decide_eq_true hx), abs_of_neg hx, ← abs_neg, neg_sub_left, neg_neg, sub_neg_eq_add, add_comm]
  · rw [if_neg (by simpa using hx), abs_of_nonneg hx]

/-- Among absolute values the rounded one is nearest, and even where another is as near. -/
theorem ofRat_nearest_abs {x : ℚ} {y : F64} (h : (ofRat x).isFinite = true) (hy : y.isFinite = true) :
    |(ofRat x).toRat - x| ≤ |(|y.toRat| - |x|)|
      ∧ (|(ofRat x).toRat - x| = |(|y.toRat| - |x|)| → |y.toRat| ≠ |(ofRat x).toRat| → (ofRat x).frac % 2 = 0) := by
  have hpos : (0 : ℚ) < 2 ^ 1074 := by positivity
  rw [abs_ofRat_sub h, abs_sub_abs_eq h, abs_sub_abs_eq hy, abs_toRat h, abs_toRat hy, frac_eq,
    div_le_div_iff_of_pos_right hpos, div_left_inj' hpos.ne', Ne, div_left_inj' hpos.ne', Nat.cast_inj]
  obtain ⟨k, c, hrounds, hmag⟩ := ofRat_rounds_of_isFinite h
  rw [hmag, hrounds.units, Nat.cast_mul, Nat.cast_pow, Nat.cast_ofNat]
  obtain heq | hne := eq_or_ne (unitsOf y.magnitude) (c * 2 ^ k)
  · rw [heq, Nat.cast_mul, Nat.cast_pow, Nat.cast_ofNat]
    exact ⟨le_rfl, fun _ hne => absurd rfl hne⟩
  · obtain ⟨hnearest, htie⟩ := hrounds.nearest hne
    refine ⟨hnearest, fun heq _ => ?_⟩
    have heven := htie heq
    omega

theorem ofRat_nearest {x : ℚ} {y : F64} (h : (ofRat x).isFinite = true) (hy : y.isFinite = true) :
    |(ofRat x).toRat - x| ≤ |y.toRat - x| :=
  (ofRat_nearest_abs h hy).1.trans (abs_abs_sub_abs_le ..)

/-- Where the other value is the opposite one, x lies midway between the two at 0, and so both are 0. -/
theorem ofRat_even_of_tie {x : ℚ} {y : F64} (h : (ofRat x).isFinite = true) (hy : y.isFinite = true)
    (htie : |(ofRat x).toRat - x| = |y.toRat - x|) (hne : y.toRat ≠ (ofRat x).toRat) : (ofRat x).frac % 2 = 0 := by
  obtain ⟨hnearest, heven⟩ := ofRat_nearest_abs h hy
  refine heven (hnearest.antisymm ((abs_abs_sub_abs_le ..).trans_eq htie.symm)) fun habs => hne ?_
  obtain heq | hopposite := abs_eq_abs.mp habs
  · exact heq
  have hx : x = 0 ∨ (ofRat x).toRat = 0 := by
    rw [hopposite] at htie
    obtain hsame | hmirrored := abs_eq_abs.mp htie
    · right
      linarith
    · left
      linarith
  have hr : (ofRat x).toRat = 0 := by
    obtain rfl | hr := hx
    · have hzero := ofRat_nearest (y := zero) h (by decide)
      rw [toRat_zero, sub_self, abs_zero, sub_zero] at hzero
      exact abs_nonpos_iff.mp hzero
    · exact hr
  rw [hopposite, hr, neg_zero]

/-! ### Rounding a binary64 value -/

/-- The greatest finite value, 2^53 - 1 steps of 2^2045 units, is below the overflow threshold. -/
theorem abs_toRat_lt {x : F64} (hx : x.isFinite = true) : |x.toRat| < 2 ^ 1024 - 2 ^ 970 := by
  have hmax : x.magnitude ≤ 2045 * 2 ^ 52 + (2 ^ 53 - 1) := by
    rw [isFinite_iff] at hx
    omega
  have hunits : unitsOf x.magnitude ≤ (2 ^ 53 - 1) * 2 ^ 2045 :=
    (unitsOf_strictMono.monotone hmax).trans_eq (unitsOf_steps (by decide) (by decide))
  have hunits' : (unitsOf x.magnitude : ℚ) ≤ (2 ^ 53 - 1 : ℕ) * 2 ^ 2045 := by exact_mod_cast hunits
  rw [abs_toRat hx, div_lt_iff₀ (by positivity), ← overflowThreshold_eq]
  refine hunits'.trans_lt ?_
  rw [pow_succ' 2 2044, ← mul_assoc]
  exact mul_lt_mul_of_pos_right (by norm_num) (by positivity)

theorem toRat_neg_iff {x : F64} (hx : x.isFinite = true) (hzero : x ≠ 0x8000000000000000#64) :
    x.toRat < 0 ↔ x.sign = true := by
  rw [toRat_eq hx]
  cases hs : x.sign
  · have hnonneg : (0 : ℚ) ≤ (unitsOf x.magnitude : ℚ) / 2 ^ 1074 := by positivity
    simpa using hnonneg
  · have hmag : x.magnitude ≠ 0 := fun hm => hzero (eq_of_sign_of_magnitude hs hm)
    have hpos : 0 < unitsOf x.magnitude := (Nat.zero_le _).trans_lt (unitsOf_strictMono (Nat.pos_of_ne_zero hmag))
    have hpos' : (0 : ℚ) < (unitsOf x.magnitude : ℚ) / 2 ^ 1074 := by positivity
    simpa using hpos'

theorem ofRat_toRat {x : F64} (hx : x.isFinite = true) (hzero : x ≠ 0x8000000000000000#64) : ofRat x.toRat = x := by
  have hfinite : (ofRat x.toRat).isFinite = true := by
    rw [← Bool.not_eq_false, isFinite_ofRat_eq_false_iff, not_le]
    exact abs_toRat_lt hx
  have heq : (ofRat x.toRat).toRat = x.toRat := by
    have hnearest := ofRat_nearest hfinite hx
    rw [sub_self, abs_zero] at hnearest
    exact sub_eq_zero.mp (abs_nonpos_iff.mp hnearest)
  apply eq_of_sign_of_magnitude
  · rw [sign_ofRat, ← Bool.decide_coe x.sign, decide_eq_decide]
    exact toRat_neg_iff hx hzero
  · apply unitsOf_strictMono.injective
    have habs := congrArg abs heq
    rwa [abs_toRat hfinite, abs_toRat hx, div_left_inj' (by positivity), Nat.cast_inj] at habs

end F64

/-- Settles O20: `Rounds` picks a nearest multiple of the spacing, ties to even, and no value off that grid is nearer. -/
theorem roundingIsToNearestEven : Obligations.RoundingIsToNearestEven := fun x =>
  ⟨fun _ hx hy => ⟨F64.ofRat_nearest hx hy, F64.ofRat_even_of_tie hx hy⟩, F64.isFinite_ofRat_eq_false_iff x⟩

/-- Settles O21: the rounding is at distance 0, and a magnitude is determined by the value it denotes. -/
theorem roundingFixesBinary64Values : Obligations.RoundingFixesBinary64Values :=
  fun _ hx hzero => F64.ofRat_toRat hx hzero

end Sys2Proof
end

section
/-! The numbers of the words that the engine writes and presents (R63, R67, R69, R70), and what a write loads and a read
returns at the two registers (R28 to R31, R41, R71). -/
namespace Sys2Proof

/-! ### Words as numbers -/

/-- A field placed above the bits of another word adds to it. -/
theorem toNat_shiftLeft_or {a b : Word} {k : ℕ} (ha : a.toNat * 2 ^ k < 2 ^ 32) (hb : b.toNat < 2 ^ k) :
    (a <<< k ||| b).toNat = a.toNat * 2 ^ k + b.toNat := by
  rw [BitVec.toNat_or, BitVec.toNat_shiftLeft, Nat.shiftLeft_eq, Nat.mod_eq_of_lt ha, Nat.mul_comm,
    Nat.two_pow_add_eq_or_of_lt hb]

theorem toNat_passwd : (Config.passwd.setWidth 32).toNat = 0x5A := rfl

theorem toNat_divWord (divI : BitVec 12) (divF : BitVec 10) :
    (divWord divI divF).toNat = 0x5A * 2 ^ 24 + divI.toNat * 2 ^ 12 + divF.toNat := by
  have hlow : (divI.setWidth 32 <<< 12 ||| divF.setWidth 32).toNat = divI.toNat * 2 ^ 12 + divF.toNat := by
    rw [toNat_shiftLeft_or] <;> simp <;> omega
  rw [divWord, BitVec.or_assoc, toNat_shiftLeft_or, hlow, toNat_passwd, Nat.add_assoc]
  · decide
  · rw [hlow]
    omega

theorem toNat_enableWord : ∀ src : BitVec 4, (enableWord src).toNat = 0x5A000210 + src.toNat := by
  decide

theorem toNat_keptFields (src : BitVec 4) (flip : Bool) (mash : BitVec 2) :
    (keptFields src flip mash).toNat = mash.toNat * 2 ^ 9 + flip.toNat * 2 ^ 8 + src.toNat := by
  revert src flip mash
  decide

/-- R70: the mask of the disable word keeps every bit of SRC, FLIP and MASH. -/
theorem keptFields_and_mask : ∀ (src : BitVec 4) (flip : Bool) (mash : BitVec 2),
    keptFields src flip mash &&& 0x0000070F#32 = keptFields src flip mash := by
  decide

theorem keptFields_lt (src : BitVec 4) (flip : Bool) (mash : BitVec 2) : (keptFields src flip mash).toNat < 2 ^ 24 := by
  have hflip := flip.toNat_le
  rw [toNat_keptFields]
  omega

theorem toNat_disableWord_keptFields (src : BitVec 4) (flip : Bool) (mash : BitVec 2) :
    (disableWord (keptFields src flip mash)).toNat
      = 0x5A000000 + mash.toNat * 2 ^ 9 + flip.toNat * 2 ^ 8 + src.toNat := by
  rw [disableWord, keptFields_and_mask, toNat_shiftLeft_or (by decide) (keptFields_lt ..), toNat_passwd,
    toNat_keptFields]
  omega

/-! ### What a write loads -/

/-- A field of a word as a number. -/
theorem extractLsb'_eq_ofNat (w : Word) (start len : ℕ) :
    w.extractLsb' start len = BitVec.ofNat len (w.toNat / 2 ^ start) := by
  rw [BitVec.extractLsb', Nat.shiftRight_eq_div_pow]

theorem passwdField_eq_passwd_iff (w : Word) : passwdField w = Config.passwd ↔ w.toNat / 2 ^ 24 = 0x5A := by
  have hw := w.isLt
  rw [← BitVec.toNat_inj, passwdField, extractLsb'_eq_ofNat, BitVec.toNat_ofNat, Nat.mod_eq_of_lt (by omega)]
  rfl

namespace Machine

theorem writeReg_of_no_password (d : Device) (reg : BusReg) {w : Word} (hw : passwdField w ≠ Config.passwd) :
    d.writeReg reg w = d := by
  simp [Device.writeReg, hw]

theorem writeReg_ctl (d : Device) {w : Word} (hw : passwdField w = Config.passwd) :
    d.writeReg .ctl w = { d with ctl := d.ctl.load w } := by
  simp [Device.writeReg, hw]

theorem writeReg_div (d : Device) {w : Word} (hw : passwdField w = Config.passwd) :
    d.writeReg .div w = { d with div := d.div.load w } := by
  simp [Device.writeReg, hw]

/-- R29: a write leaves BUSY to the generator. -/
@[simp] theorem writeReg_busy (d : Device) (reg : BusReg) (w : Word) :
    (d.writeReg reg w).ctl.busy = d.ctl.busy := by
  unfold Device.writeReg
  split
  · rfl
  · cases reg <;> rfl

/-- Settles O38: the password's bits as a number, then one load per register. -/
theorem writesAreGatedByThePassword : Obligations.WritesAreGatedByThePassword := by
  intro d reg w
  rw [ne_eq, ← passwdField_eq_passwd_iff]
  refine ⟨fun hw => writeReg_of_no_password d reg hw, fun hw => ⟨?_, ?_⟩⟩
  · rw [writeReg_div d hw, DivReg.load, divIField, divFField, extractLsb'_eq_ofNat, extractLsb'_eq_ofNat, pow_zero,
      Nat.div_one]
  · rw [writeReg_ctl d hw, CtlReg.load, ctlSrcField, ctlMashField, extractLsb'_eq_ofNat, extractLsb'_eq_ofNat, pow_zero,
      Nat.div_one]
    rfl

@[simp] theorem writeReg_divWord (d : Device) (divI : BitVec 12) (divF : BitVec 10) :
    d.writeReg .div (divWord divI divF) = { d with div := ⟨divI, divF⟩ } := by
  rw [writeReg_div d (passwdField_divWord divI divF), DivReg.load, divIField_divWord, divFField_divWord]

theorem load_enableWord (c : CtlReg) (src : BitVec 4) :
    c.load (enableWord src) = ⟨src, true, false, c.busy, false, 1#2⟩ := by
  have hfields : ∀ src : BitVec 4, let w := enableWord src
      ctlSrcField w = src ∧ ctlEnabField w = true ∧ ctlKillField w = false ∧ ctlFlipField w = false
        ∧ ctlMashField w = 1#2 := by
    decide
  obtain ⟨hsrc, henab, hkill, hflip, hmash⟩ := hfields src
  rw [CtlReg.load, hsrc, henab, hkill, hflip, hmash]

@[simp] theorem writeReg_enableWord (d : Device) (src : BitVec 4) :
    d.writeReg .ctl (enableWord src) = { d with ctl := ⟨src, true, false, d.ctl.busy, false, 1#2⟩ } := by
  rw [writeReg_ctl d (passwdField_enableWord src), load_enableWord]

theorem load_disableWord (c : CtlReg) (r : Word) :
    c.load (disableWord r) = ⟨ctlSrcField r, false, false, c.busy, ctlFlipField r, ctlMashField r⟩ := by
  have henab : ctlEnabField (disableWord r) = false := by simp [ctlEnabField, disableWord, Config.passwd]
  have hkill : ctlKillField (disableWord r) = false := by simp [ctlKillField, disableWord, Config.passwd]
  rw [CtlReg.load, henab, hkill, ctlSrcField_disableWord, ctlFlipField_disableWord, ctlMashField_disableWord]

theorem fields_keptFields : ∀ (src : BitVec 4) (flip : Bool) (mash : BitVec 2), let r := keptFields src flip mash
    ctlSrcField r = src ∧ ctlFlipField r = flip ∧ ctlMashField r = mash := by
  decide

@[simp] theorem writeReg_disableWord (d : Device) (src : BitVec 4) (flip : Bool) (mash : BitVec 2) :
    d.writeReg .ctl (disableWord (keptFields src flip mash))
      = { d with ctl := ⟨src, false, false, d.ctl.busy, flip, mash⟩ } := by
  obtain ⟨hsrc, hflip, hmash⟩ := fields_keptFields src flip mash
  rw [writeReg_ctl d (passwdField_disableWord _), load_disableWord, hsrc, hflip, hmash]

/-! ### What a read returns -/

theorem ctlSrcField_readWord (c : CtlReg) (free : Word) : ctlSrcField (c.readWord free) = c.src := by
  apply bits_ext
  intro k hk
  interval_cases k <;> simp [ctlSrcField, CtlReg.readWord]

theorem ctlBusyField_readWord (c : CtlReg) (free : Word) : ctlBusyField (c.readWord free) = c.busy := by
  simp [ctlBusyField, CtlReg.readWord, BitVec.getLsbD_of_ge]

theorem ctlFlipField_readWord (c : CtlReg) (free : Word) : ctlFlipField (c.readWord free) = c.flip := by
  simp [ctlFlipField, CtlReg.readWord, BitVec.getLsbD_of_ge]

theorem ctlMashField_readWord (c : CtlReg) (free : Word) : ctlMashField (c.readWord free) = c.mash := by
  apply bits_ext
  intro k hk
  interval_cases k <;> simp [ctlMashField, CtlReg.readWord, BitVec.getLsbD_of_ge]

/-- U12: outside SRC, BUSY, FLIP and MASH a read is the device's answer. -/
theorem readWord_and_free (c : CtlReg) (free : Word) :
    c.readWord free &&& 0xFFFFF870#32 = free &&& 0xFFFFF870#32 := by
  apply bits_ext
  intro k hk
  interval_cases k <;> simp [CtlReg.readWord, BitVec.getLsbD_of_ge]

/-- Settles O39, field by field. -/
theorem ctlReadReturnsTheFields : Obligations.CtlReadReturnsTheFields := fun c free =>
  ⟨ctlSrcField_readWord c free, ctlBusyField_readWord c free, ctlFlipField_readWord c free,
    ctlMashField_readWord c free, readWord_and_free c free⟩

/-! ### The three register words -/

/-- Settles O35: the number of the word written, and what DIV loads from it. -/
theorem wrDivProgramsTheDivider : Obligations.WrDivProgramsTheDivider := fun s divI divF =>
  ⟨_, divWord divI divF, rfl, toNat_divWord divI divF, writeReg_divWord s.dev divI divF, rfl, rfl, rfl, rfl⟩

/-- Settles O36: the number of the word written, and what CTL loads from it. -/
theorem wrCtlEnableStartsTheGenerator : Obligations.WrCtlEnableStartsTheGenerator := fun s src =>
  ⟨_, enableWord src, rfl, toNat_enableWord src, writeReg_enableWord s.dev src, rfl, rfl, rfl, rfl⟩

/-- Settles O37: as O36, with the kept fields written back. -/
theorem wrCtlDisableStopsTheGenerator : Obligations.WrCtlDisableStopsTheGenerator := fun s src flip mash =>
  ⟨_, disableWord (keptFields src flip mash), rfl, toNat_disableWord_keptFields src flip mash,
    writeReg_disableWord s.dev src flip mash, rfl, rfl, rfl, rfl⟩

end Machine

end Sys2Proof
end

section
/-! What one micro-step can do, branch by branch: `step_cases` with each instruction's branches told apart. Every rule of the
whole machine is then one split over `Branch`. -/
namespace Sys2Proof.Machine

/-- Select(t) on the machine's table (R99). -/
def State.winner (s : State) (t : F64) : Option Candidate := select s.cfg.numerics t s.rows

/-- The engine once SELPROG has latched its target and the reasons (R99, R108). -/
def State.evaluated (s : State) (t : F64) : State :=
  { s with eng := { s.eng with target := t, reason := reasonsOf s.cfg.numerics t s.rows } }

/-- The state once S3 has read CTL and counted its poll (R116). -/
def State.counted (s : State) : State :=
  { s.memRead .ctl with eng := { s.eng with pollCount := s.eng.pollCount + 1 } }

section

variable (s : State) (t : F64)

@[simp] theorem evaluated_cfg : (s.evaluated t).cfg = s.cfg := rfl
@[simp] theorem evaluated_eng :
    (s.evaluated t).eng = { s.eng with target := t, reason := reasonsOf s.cfg.numerics t s.rows } := rfl
@[simp] theorem evaluated_trace : (s.evaluated t).trace = s.trace := rfl
@[simp] theorem counted_cfg : s.counted.cfg = s.cfg := rfl
@[simp] theorem counted_eng : s.counted.eng = { s.eng with pollCount := s.eng.pollCount + 1 } := rfl

end

/-- The engine's half of a step, one constructor per branch of a micro-step. -/
inductive Branch (s : State) : State → Prop
  | waits : s.eng.phase = .idle → s.env.caller = [] → Branch s s
  | setPin (f rest) : s.eng.phase = .idle → s.env.caller = .setPin f :: rest →
      Branch s { s with dev := { s.dev with pin := f }, env := { s.env with caller := rest } }
  | accept (cmd tgt waits rest i) : s.eng.phase = .idle → s.env.caller = .present cmd tgt waits :: rest →
      decode (.command cmd tgt) = .ok i →
      Branch s (({ s with env := { s.env with caller := rest } } : State).enter i tgt)
  | illegal (cmd tgt waits rest) : s.eng.phase = .idle → s.env.caller = .present cmd tgt waits :: rest →
      Branch s ({ s with env := { s.env with caller := rest } } : State).illegalCommand
  /-- INIT without a mapping made, or a failed guard of SELPROG or STOP (R77, R78, R108, R119). -/
  | answers (env st) : s.eng.phase = .i1 ∨ s.eng.phase = .p0 ∨ s.eng.phase = .t0 →
      Branch s (({ s with env := env } : State).finish st)
  | maps (env base) : s.eng.phase = .i1 → base.toNat % 4096 = 0 →
      Branch s (({ s with env := env, eng := { s.eng with periphBase := base, init := true } } : State).finish .ok)
  | refresh (env) : s.eng.phase = .f1 →
      Branch s (({ s with env := env, eng := { s.eng with
        freq := (Env.measAnswers s.cfg.sources.length s.env).map sanitize } } : State).finish .ok)
  | noSource (t) : s.eng.phase = .p0 →
      Branch s (({ s.evaluated t with eng := (s.evaluated t).eng.clearResults } : State).finish .noSuitableSource)
  | selects (t best) : s.eng.phase = .p0 → s.eng.init = true → s.winner t = some best →
      Branch s (({ s.evaluated t with eng :=
        { (s.evaluated t).eng with sel := best.selection, stopFor := .selprog } } : State).goto .s1)
  | stops : s.eng.phase = .t0 → s.eng.init = true →
      Branch s (({ s with eng := { s.eng with stopFor := .stop } } : State).goto .s1)
  | reads : s.eng.phase = .s1 →
      Branch s (({ s.memRead .ctl with eng := { s.eng with ctlRead := s.memReadValue .ctl } } : State).goto .s2)
  | disables (src flip mash) : s.eng.phase = .s2 → src = ctlSrcField s.eng.ctlRead →
      flip = ctlFlipField s.eng.ctlRead → mash = ctlMashField s.eng.ctlRead →
      Branch s (({ s.memWrite .ctl (disableWord (keptFields src flip mash)) with
        eng := { s.eng with pollCount := 0 } } : State).goto .s3)
  | pollsQuiet : s.eng.phase = .s3 → s.dev.ctl.busy = false → Branch s (s.counted.goto .s4)
  | pollsLast : s.eng.phase = .s3 → s.eng.pollCount + 1 = (s.cfg.pollMax : ℕ) →
      Branch s (({ s.counted with eng := { s.counted.eng with stopTimeout := true } } : State).goto .s4)
  | pollsOn : s.eng.phase = .s3 → s.eng.pollCount + 1 ≠ (s.cfg.pollMax : ℕ) →
      Branch s ((s.counted.wait s.cfg.pollInterval).goto .s3)
  | parksFor (p) : s.eng.phase = .s4 → (s.eng.stopFor = .selprog ∧ p = .p1 ∨ s.eng.stopFor = .stop ∧ p = .t1) →
      Branch s (s.parkPin.goto p)
  | programs : s.eng.phase = .p1 →
      Branch s ((s.memWrite .div (divWord s.eng.sel.divI s.eng.sel.divF)).goto .p2)
  | settles : s.eng.phase = .p2 → Branch s ((s.wait s.cfg.settleTime).goto .p3)
  | enables : s.eng.phase = .p3 → Branch s ((s.memWrite .ctl (enableWord s.eng.sel.src)).goto .p4)
  | records : s.eng.phase = .p4 →
      Branch s (({ s with eng := { s.eng with resValid := true, res := s.eng.sel } } : State).finish .ok)
  | stopped : s.eng.phase = .t1 →
      Branch s (({ s with eng := { s.eng with resValid := false } } : State).finish .ok)

/-- R43: a probe answer that INIT does not refuse is page-aligned, given or free. -/
theorem probeAnswer_aligned {e : Env} {base : Word} (hgiven : e.probeMisaligned = false)
    (hknown : e.probeAnswer = .known base) : base.toNat % 4096 = 0 := by
  unfold Env.probeMisaligned at hgiven
  unfold Env.probeAnswer at hknown
  cases hprobe : e.probe with
  | nil =>
    simp only [hprobe, List.headD_nil, freeProbeAnswer] at hknown
    split at hknown
    · obtain rfl := ProbeAnswer.known.inj hknown
      simp only [BitVec.toNat_append]
      simp [Nat.shiftLeft_eq]
    · cases hknown
  | cons answer rest =>
    simp only [hprobe, List.headD_cons] at hknown
    simpa [hprobe, hknown, baseAligned, Config.pageSize] using hgiven

theorem exec_init_branch {s u : State} (hp : s.eng.phase = .i1) (h : exec .init s = .next u) : Branch s u := by
  simp only [exec, execInit] at h
  split at h
  · cases h
    exact .answers s.env .ok (.inl hp)
  split at h
  · cases h
  next haligned =>
  cases h
  unfold initProbe
  split
  · exact .answers _ _ (.inl hp)
  next base hbase =>
  dsimp only
  split
  · exact .answers _ _ (.inl hp)
  · exact .maps _ base hp (probeAnswer_aligned (by simpa using haligned) hbase)

theorem exec_selprog_branch {s u : State} {t : F64} (hp : s.eng.phase = .p0) (h : exec (.selprog t) s = .next u) :
    Branch s u := by
  simp only [exec, execSelprog] at h
  split at h
  · cases h
    exact .answers s.env .notInitialized (.inr (.inl hp))
  next hinit =>
  split at h
  · cases h
    exact .answers s.env .invalidTarget (.inr (.inl hp))
  cases h
  unfold selprogSelect
  split
  · exact .noSource t hp
  next best hbest => exact .selects t best hp (by simpa using hinit) hbest

theorem exec_stop_branch {s u : State} (hp : s.eng.phase = .t0) (h : exec .stop s = .next u) : Branch s u := by
  simp only [exec, execStop] at h
  split at h
  · cases h
    exact .answers s.env .notInitialized (.inr (.inr hp))
  next hinit =>
  cases h
  exact .stops hp (by simpa using hinit)

theorem poll_branch {s : State} (hp : s.eng.phase = .s3) : Branch s (poll s) := by
  unfold poll
  dsimp only
  split
  next hquiet =>
    rw [ctlBusyField_memReadValue] at hquiet
    exact .pollsQuiet hp hquiet
  split
  next hlast => exact .pollsLast hp hlast
  next hleft => exact .pollsOn hp hleft

theorem park_branch {s : State} (hp : s.eng.phase = .s4) : Branch s (park s) := by
  unfold park
  cases hfor : s.eng.stopFor with
  | selprog => exact .parksFor .p1 hp (.inl ⟨hfor, rfl⟩)
  | stop => exact .parksFor .t1 hp (.inr ⟨hfor, rfl⟩)

theorem EngineStep.branch {s u : State} (h : EngineStep s u) : Branch s u := by
  cases h with
  | waits hp hc => exact .waits hp hc
  | setPin f rest hp hc => exact .setPin f rest hp hc
  | accept cmd tgt waits rest i hp hc hd => exact .accept cmd tgt waits rest i hp hc hd
  | illegal cmd tgt waits rest e hp hc _ => exact .illegal cmd tgt waits rest hp hc
  | exec i u h hp htgt hdiv hsrc hkept =>
    cases i with
    | init => exact exec_init_branch hp h
    | refresh =>
      cases h
      exact .refresh _ hp
    | selprog t => exact exec_selprog_branch hp h
    | stop => exact exec_stop_branch hp h
    | wrDiv divI divF =>
      cases h
      obtain ⟨rfl, rfl⟩ := hdiv _ _ rfl
      exact .programs hp
    | wrCtlEnable src =>
      cases h
      obtain rfl := hsrc _ rfl
      exact .enables hp
    | wrCtlDisable src flip mash =>
      cases h
      obtain ⟨hsrc, hflip, hmash⟩ := hkept _ _ _ rfl
      exact .disables src flip mash hp hsrc hflip hmash
  | s1 hp => exact .reads hp
  | s3 hp => exact poll_branch hp
  | s4 hp => exact park_branch hp
  | p2 hp => exact .settles hp
  | p4 hp => exact .records hp
  | t1 hp => exact .stopped hp

/-- Every next state is a branch's state after the generator's move. -/
theorem step_branch {s t : State} (h : step s = .next t) : ∃ u, Branch s u ∧ t = u.generatorMove := by
  obtain ⟨u, hu, rfl⟩ := step_cases h
  exact ⟨u, hu.branch, rfl⟩

end Sys2Proof.Machine
end

section
/-! The invariant (R18 to R24, R91, R108, R114, R154 to R156): it holds at reset, every branch of a micro-step keeps it, and so
does the generator's move. -/
namespace Sys2Proof.Machine

/-! ### The winner is a source of the table (R104) -/

theorem withFreq_map_fst (sources : List Source) (freqs : List F64) :
    (withFreq sources freqs).map Prod.fst = sources := by
  induction sources generalizing freqs with
  | nil => rfl
  | cons src srcs ih => cases freqs <;> simp [withFreq, ih]

theorem withFreq_length (sources : List Source) (freqs : List F64) :
    (withFreq sources freqs).length = sources.length := by
  rw [← List.length_map (f := Prod.fst), withFreq_map_fst]

/-- A candidate is an accepted row of the table, under its own index and id. -/
def Candidate.isRow (mode : Numerics) (t : F64) (rows : List (Source × F64)) (c : Candidate) : Prop :=
  ∃ row : Source × F64, rows[c.idx]? = some row ∧ row.1.id = c.src ∧ verdictOf mode t row = .accepted c.eval

/-- One turn of the loop keeps the best so far or takes the new candidate. -/
theorem keepBest_forall {p : Candidate → Prop} {best : Option Candidate} {c : Candidate}
    (hbest : ∀ b, best = some b → p b) (hc : p c) : ∀ b, keepBest best c = some b → p b := by
  unfold keepBest
  intro b hb
  split at hb
  · cases hb
    exact hc
  next old =>
  split at hb
  · cases hb
    exact hc
  · cases hb
    exact hbest _ rfl

theorem selectFrom_isRow {mode : Numerics} {t : F64} {seen rest : List (Source × F64)} {best : Option Candidate}
    (hbest : ∀ b, best = some b → b.isRow mode t (seen ++ rest)) :
    ∀ c, selectFrom mode t seen.length best rest = some c → c.isRow mode t (seen ++ rest) := by
  induction rest generalizing seen best with
  | nil => exact hbest
  | cons row rest ih =>
    have hsplit : seen ++ row :: rest = (seen ++ [row]) ++ rest := by simp
    have hlength : seen.length + 1 = (seen ++ [row]).length := by simp
    intro c hc
    unfold selectFrom at hc
    rw [hlength] at hc
    rw [hsplit] at hbest ⊢
    split at hc
    next e haccepted =>
      refine ih (keepBest_forall hbest ⟨row, ?_, rfl, haccepted⟩) c hc
      simp
    next => exact ih hbest c hc

theorem select_isRow {mode : Numerics} {t : F64} {rows : List (Source × F64)} {c : Candidate}
    (h : select mode t rows = some c) : c.isRow mode t rows :=
  selectFrom_isRow (seen := []) (best := none) (by simp) c h

/-- R91: the fields of an accepted candidate are those of a divider that is programmed. -/
theorem dividerOk_of_accepted {mode : Numerics} {enabled : Bool} {f t : F64} {e : Evaluation}
    (h : evalCandidate mode enabled f t = .accepted e) :
    dividerOk (BitVec.ofNat 12 e.divI) (BitVec.ofNat 10 e.divF) := by
  obtain ⟨-, -, hmin, hmax, hfrac, htop, -, -, -⟩ := acceptedDivisorIsInRange mode enabled f t e h
  have hdivI : (BitVec.ofNat 12 e.divI).toNat = e.divI := Nat.mod_eq_of_lt (by omega)
  rw [dividerOk, hdivI]
  refine ⟨hmin, fun heq => ?_⟩
  rw [htop heq]

theorem selectionOk_winner {s : State} {t : F64} {c : Candidate} (h : s.winner t = some c) :
    selectionOk s.cfg c.selection := by
  obtain ⟨row, hrow, hid, hverdict⟩ := select_isRow h
  obtain ⟨henabled, -⟩ := evalCandidate_accepted hverdict
  refine ⟨⟨row.1, ?_, hid, henabled⟩, dividerOk_of_accepted hverdict⟩
  rw [← withFreq_map_fst s.cfg.sources s.eng.freq, List.getElem?_map]
  exact congrArg (Option.map Prod.fst) hrow

/-! ### What REFRESH stores (R18, R81) -/

theorem sign_of_isPositive {x : F64} (hfinite : x.isFinite = true) (hpos : x.isPositive = true) : x.sign = false := by
  rw [F64.isPositive, F64.lt_iff_toRat (by decide) hfinite, F64.toRat_zero, F64.toRat_eq hfinite] at hpos
  by_contra hsign
  rw [if_pos (by simpa using hsign), Left.neg_pos_iff] at hpos
  exact hpos.not_ge (by positivity)

theorem sanitize_usable (a : MeasAnswer) : (sanitize a).isFinite = true ∧ (sanitize a).sign = false := by
  unfold sanitize
  split
  · decide
  split
  next h =>
    obtain ⟨hfinite, hpos⟩ := Bool.and_eq_true_iff.mp h
    exact ⟨hfinite, sign_of_isPositive hfinite hpos⟩
  · decide

/-! ### The invariant at the labels with no clause of their own -/

/-- The labels before a command's guards have passed. -/
def Phase.unguarded : Phase → Bool
  | .idle | .i1 | .f1 | .p0 | .t0 => true
  | _ => false

/-- The clauses of the invariant that speak of every label. -/
structure State.Standing (s : State) : Prop where
  freqLength : s.eng.freq.length = s.cfg.sources.length
  reasonLength : s.eng.reason.length = s.cfg.sources.length
  freqUsable : ∀ f ∈ s.eng.freq, f.isFinite = true ∧ f.sign = false
  baseAligned : s.eng.periphBase.toNat % 4096 = 0
  pollBound : s.eng.pollCount ≤ (s.cfg.pollMax : ℕ)
  resultOk : s.eng.resValid = true → selectionOk s.cfg s.eng.res

theorem State.Inv.standing {s : State} (h : s.Inv) : s.Standing := { h with }

theorem Phase.no_clause_of_unguarded {p : Phase} (h : p.unguarded = true) :
    p.mapped = false ∧ (∀ caller, p.holdsSelection caller = false) ∧ p.disabled = false ∧ p.polled = false
      ∧ p.parked = false ∧ p.programmed = false ∧ p ≠ .s2 ∧ p ≠ .s3 ∧ p ≠ .p4 := by
  cases p <;> simp [Phase.unguarded] at h <;>
    simp [Phase.mapped, Phase.holdsSelection, Phase.disabled, Phase.polled, Phase.parked, Phase.programmed]

theorem State.Standing.inv {s : State} (h : s.Standing) (hp : s.eng.phase.unguarded = true) : s.Inv := by
  obtain ⟨hmapped, hholds, hdisabled, hpolled, hparked, hprogrammed, hs2, hs3, hp4⟩ := Phase.no_clause_of_unguarded hp
  exact { h with
    mapped := by simp [hmapped]
    pollLeft := fun heq => absurd heq hs3
    heldOk := by simp [hholds]
    readCurrent := fun heq => absurd heq hs2
    disabled := by simp [hdisabled]
    quiet := by simp [hpolled]
    parked := by simp [hparked]
    programmed := by simp [hprogrammed]
    enabled := fun heq => absurd heq hp4 }

/-- A command's end leaves no clause but the standing ones. -/
theorem State.Standing.inv_finish {s : State} (h : s.Standing) (st : Status) : (s.finish st).Inv :=
  State.Standing.inv { h with } rfl

/-- Settles O2: reset ends at IDLE, where only the standing clauses speak. -/
theorem invariantHoldsAtReset : Obligations.InvariantHoldsAtReset := by
  intro cfg dev
  refine State.Standing.inv ⟨?_, ?_, ?_, rfl, Nat.zero_le _, nofun⟩ rfl
  · exact List.length_replicate
  · exact List.length_replicate
  · intro f hf
    obtain rfl := List.eq_of_mem_replicate hf
    decide

/-! ### Each branch keeps the invariant -/

theorem reasonsOf_length (s : State) (t : F64) :
    (reasonsOf s.cfg.numerics t s.rows).length = s.cfg.sources.length := by
  rw [reasonsOf, List.length_map, State.rows, withFreq_length]

section

variable {s : State} (h : s.Inv)
include h

theorem inv_selects {t : F64} {best : Candidate} (hinit : s.eng.init = true) (hbest : s.winner t = some best) :
    (({ s.evaluated t with eng :=
      { (s.evaluated t).eng with sel := best.selection, stopFor := .selprog } } : State).goto .s1).Inv :=
  { h with
    reasonLength := reasonsOf_length s t
    mapped := fun _ => hinit
    heldOk := fun _ => selectionOk_winner hbest
    pollLeft := nofun, readCurrent := nofun, disabled := nofun, quiet := nofun, parked := nofun, programmed := nofun
    enabled := nofun }

theorem inv_stops (hinit : s.eng.init = true) :
    (({ s with eng := { s.eng with stopFor := .stop } } : State).goto .s1).Inv :=
  { h with
    mapped := fun _ => hinit
    pollLeft := nofun, heldOk := nofun, readCurrent := nofun, disabled := nofun, quiet := nofun, parked := nofun
    programmed := nofun, enabled := nofun }

/-- S1 reads the fields that CTL holds (R41, R114). -/
theorem inv_reads (hp : s.eng.phase = .s1) :
    (({ s.memRead .ctl with eng := { s.eng with ctlRead := s.memReadValue .ctl } } : State).goto .s2).Inv :=
  { h with
    mapped := fun _ => h.mapped (by rw [hp]; rfl)
    heldOk := fun hheld => h.heldOk (by rw [hp]; exact hheld)
    readCurrent := fun _ =>
      ⟨ctlSrcField_readWord _ _, ctlFlipField_readWord _ _, ctlMashField_readWord _ _⟩
    pollLeft := nofun, disabled := nofun, quiet := nofun, parked := nofun, programmed := nofun, enabled := nofun }

/-- S2 clears ENAB and KILL and starts the polls at 0 (R114). -/
theorem inv_disables (hp : s.eng.phase = .s2) (src : BitVec 4) (flip : Bool) (mash : BitVec 2) :
    (({ s.memWrite .ctl (disableWord (keptFields src flip mash)) with
      eng := { s.eng with pollCount := 0 } } : State).goto .s3).Inv :=
  { h with
    mapped := fun _ => h.mapped (by rw [hp]; rfl)
    pollBound := Nat.zero_le _
    pollLeft := fun _ => s.cfg.pollMax.pos
    heldOk := fun hheld => h.heldOk (by rw [hp]; exact hheld)
    disabled := fun _ => by simp
    readCurrent := nofun, quiet := nofun, parked := nofun, programmed := nofun, enabled := nofun }

/-- The poll ends because BUSY read 0, or with stopTimeout set (R116, R117). -/
theorem inv_pollEnds (hp : s.eng.phase = .s3) (timeout : Bool)
    (hquiet : timeout = false → s.dev.ctl.busy = false) :
    (({ s.counted with eng := { s.counted.eng with stopTimeout := timeout } } : State).goto .s4).Inv :=
  { h with
    mapped := fun _ => h.mapped (by rw [hp]; rfl)
    pollBound := h.pollLeft hp
    heldOk := fun hheld => h.heldOk (by rw [hp]; exact hheld)
    disabled := fun _ => h.disabled (by rw [hp]; rfl)
    quiet := fun _ => hquiet
    pollLeft := nofun, readCurrent := nofun, parked := nofun, programmed := nofun, enabled := nofun }

theorem inv_pollsOn (hp : s.eng.phase = .s3) (hleft : s.eng.pollCount + 1 ≠ (s.cfg.pollMax : ℕ)) :
    ((s.counted.wait s.cfg.pollInterval).goto .s3).Inv :=
  { h with
    mapped := fun _ => h.mapped (by rw [hp]; rfl)
    pollBound := h.pollLeft hp
    pollLeft := fun _ => lt_of_le_of_ne (h.pollLeft hp) hleft
    heldOk := fun hheld => h.heldOk (by rw [hp]; exact hheld)
    disabled := fun _ => h.disabled (by rw [hp]; rfl)
    readCurrent := nofun, quiet := nofun, parked := nofun, programmed := nofun, enabled := nofun }

/-- S4 parks the pin; only SELPROG holds a selection on (R113, R118). -/
theorem inv_parksFor {p : Phase} (hp : s.eng.phase = .s4)
    (hfor : s.eng.stopFor = .selprog ∧ p = .p1 ∨ s.eng.stopFor = .stop ∧ p = .t1) : (s.parkPin.goto p).Inv := by
  have hinit := h.mapped (by rw [hp]; rfl)
  have hdisabled := h.disabled (by rw [hp]; rfl)
  have hquiet := h.quiet (by rw [hp]; rfl)
  obtain ⟨hcaller, rfl⟩ | ⟨-, rfl⟩ := hfor
  · have hheld := h.heldOk (by rw [hp, hcaller]; rfl)
    exact { h with
      mapped := fun _ => hinit
      heldOk := fun _ => hheld
      disabled := fun _ => hdisabled
      quiet := fun _ => hquiet
      parked := fun _ => rfl
      pollLeft := nofun, readCurrent := nofun, programmed := nofun, enabled := nofun }
  · exact { h with
      mapped := fun _ => hinit
      disabled := fun _ => hdisabled
      quiet := fun _ => hquiet
      parked := fun _ => rfl
      pollLeft := nofun, heldOk := nofun, readCurrent := nofun, programmed := nofun, enabled := nofun }

/-- P1 loads the held divider and leaves CTL and the pin (R110). -/
theorem inv_programs (hp : s.eng.phase = .p1) :
    ((s.memWrite .div (divWord s.eng.sel.divI s.eng.sel.divF)).goto .p2).Inv := by
  have hdisabled := h.disabled (by rw [hp]; rfl)
  have hquiet := h.quiet (by rw [hp]; rfl)
  have hparked := h.parked (by rw [hp]; rfl)
  exact { h with
    mapped := fun _ => h.mapped (by rw [hp]; rfl)
    heldOk := fun _ => h.heldOk (by rw [hp]; rfl)
    disabled := fun _ => by simpa using hdisabled
    quiet := fun _ => by simpa using hquiet
    parked := fun _ => by simpa using hparked
    programmed := fun _ => by simp
    pollLeft := nofun, readCurrent := nofun, enabled := nofun }

theorem inv_settles (hp : s.eng.phase = .p2) : ((s.wait s.cfg.settleTime).goto .p3).Inv :=
  { h with
    mapped := fun _ => h.mapped (by rw [hp]; rfl)
    heldOk := fun _ => h.heldOk (by rw [hp]; rfl)
    disabled := fun _ => h.disabled (by rw [hp]; rfl)
    quiet := fun _ => h.quiet (by rw [hp]; rfl)
    parked := fun _ => h.parked (by rw [hp]; rfl)
    programmed := fun _ => h.programmed (by rw [hp]; rfl)
    pollLeft := nofun, readCurrent := nofun, enabled := nofun }

/-- P3 loads the held source, enabled, and leaves DIV and the pin (R111). -/
theorem inv_enables (hp : s.eng.phase = .p3) :
    ((s.memWrite .ctl (enableWord s.eng.sel.src)).goto .p4).Inv := by
  have hparked := h.parked (by rw [hp]; rfl)
  have hprogrammed := h.programmed (by rw [hp]; rfl)
  exact { h with
    mapped := fun _ => h.mapped (by rw [hp]; rfl)
    heldOk := fun _ => h.heldOk (by rw [hp]; rfl)
    parked := fun _ => by simpa using hparked
    programmed := fun _ => by simpa using hprogrammed
    enabled := fun _ => by simp
    pollLeft := nofun, readCurrent := nofun, disabled := nofun, quiet := nofun }

end

/-- A command word decodes to a command, and no command's first label has a clause of its own (R25, R57). -/
theorem unguarded_of_decode_command {cmd : Word} {tgt : F64} {i : Instr} (h : decode (.command cmd tgt) = .ok i) :
    (labelOf i).unguarded = true := by
  simp only [decode, decodeCommand] at h
  split_ifs at h <;> cases h <;> rfl

theorem Branch.keeps_inv {s u : State} (hu : Branch s u) (h : s.Inv) : u.Inv := by
  cases hu with
  | waits => exact h
  | setPin f rest hp => exact State.Standing.inv { h.standing with } (by rw [hp]; rfl)
  | accept cmd tgt waits rest i _ _ hdecode =>
    exact State.Standing.inv { h.standing with } (unguarded_of_decode_command hdecode)
  | illegal => exact State.Standing.inv { h.standing with } rfl
  | answers =>
    apply State.Standing.inv_finish
    exact { h.standing with }
  | maps env base _ hbase =>
    apply State.Standing.inv_finish
    exact { h.standing with baseAligned := hbase }
  | refresh =>
    have husable : ∀ f ∈ (Env.measAnswers s.cfg.sources.length s.env).map sanitize,
        f.isFinite = true ∧ f.sign = false := by
      intro f hf
      obtain ⟨a, -, rfl⟩ := List.mem_map.mp hf
      exact sanitize_usable a
    apply State.Standing.inv_finish
    exact { h.standing with freqLength := by simp, freqUsable := husable }
  | noSource t =>
    apply State.Standing.inv_finish
    exact { h.standing with reasonLength := reasonsOf_length s t, resultOk := nofun }
  | selects t best _ hinit hbest => exact inv_selects h hinit hbest
  | stops _ hinit => exact inv_stops h hinit
  | reads hp => exact inv_reads h hp
  | disables src flip mash hp => exact inv_disables h hp src flip mash
  | pollsQuiet hp hquiet => exact inv_pollEnds h hp s.eng.stopTimeout fun _ => hquiet
  | pollsLast hp => exact inv_pollEnds h hp true nofun
  | pollsOn hp hleft => exact inv_pollsOn h hp hleft
  | parksFor p hp hfor => exact inv_parksFor h hp hfor
  | programs hp => exact inv_programs h hp
  | settles hp => exact inv_settles h hp
  | enables hp => exact inv_enables h hp
  | records hp =>
    apply State.Standing.inv_finish
    exact { h.standing with resultOk := fun _ => h.heldOk (by rw [hp]; rfl) }
  | stopped =>
    apply State.Standing.inv_finish
    exact { h.standing with resultOk := nofun }

theorem generatorMove_ctl_fields (s : State) :
    s.generatorMove.dev.ctl.src = s.dev.ctl.src ∧ s.generatorMove.dev.ctl.enab = s.dev.ctl.enab
      ∧ s.generatorMove.dev.ctl.kill = s.dev.ctl.kill ∧ s.generatorMove.dev.ctl.flip = s.dev.ctl.flip
      ∧ s.generatorMove.dev.ctl.mash = s.dev.ctl.mash := by
  rw [generatorMove_ctl]
  simp

/-- After the poll the generator is disabled, so its move cannot make it busy (R33, R155). -/
theorem generatorMove_keeps_inv {s : State} (h : s.Inv) : s.generatorMove.Inv := by
  obtain ⟨hsrc, henab, hkill, hflip, hmash⟩ := generatorMove_ctl_fields s
  have hdisabled : s.eng.phase.polled = true → s.eng.phase.disabled = true := by
    cases s.eng.phase <;> simp [Phase.polled, Phase.disabled]
  have hquiet (hpolled : s.eng.phase.polled = true) (hbusy : s.dev.ctl.busy = false) :
      s.generatorMove.dev.ctl.busy = false := by
    obtain heq | heq := generatorMove_busy s
    · rw [heq, hbusy]
    · rw [heq, (h.disabled (hdisabled hpolled)).1, Bool.false_and]
  exact { h with
    readCurrent := by simpa [hsrc, hflip, hmash] using h.readCurrent
    disabled := by simpa [henab, hkill] using h.disabled
    quiet := fun hpolled htimeout => hquiet hpolled (h.quiet hpolled htimeout)
    parked := by simpa using h.parked
    programmed := by simpa using h.programmed
    enabled := by simpa [hsrc, henab, hkill, hflip, hmash] using h.enabled }

/-- Settles O3: the branch of the step keeps the invariant, then the generator's move does. -/
theorem stepKeepsInvariant : Obligations.StepKeepsInvariant := by
  intro s t h hstep
  obtain ⟨u, hu, rfl⟩ := step_branch hstep
  exact generatorMove_keeps_inv (hu.keeps_inv h)

end Sys2Proof.Machine
end

section
/-! Reset, the idle engine and the labels' micro-steps (R25, R34, R38, R72, R152). -/
namespace Sys2Proof.Machine

theorem resp_reset (n : ℕ) : (Engine.reset n).resp = 0#32 := by
  simp [Engine.resp, Engine.reset, Selection.zero, Status.code]

/-- Settles O1: field by field of the reset state. -/
theorem resetGivesEngineItsValuesAndKeepsDevice : Obligations.ResetGivesEngineItsValuesAndKeepsDevice := by
  refine ⟨fun cfg dev => ⟨rfl, rfl, rfl, rfl, rfl, List.length_replicate, ?_, List.length_replicate, ?_, rfl, rfl, rfl,
    rfl, rfl, rfl, rfl, rfl, rfl, rfl, rfl, resp_reset _, rfl⟩, _, _, rfl⟩
  · intro f hf
    exact List.eq_of_mem_replicate hf
  · intro r hr
    rw [List.eq_of_mem_replicate hr]
    rfl

/-- Settles O9: the branch of `step` for a transfer that decodes. -/
theorem stepRunsTheDecodedInstruction : Obligations.StepRunsTheDecodedInstruction := by
  intro s tr i hquiet haction hdecode
  simp [step, hquiet, haction, hdecode]

/-- Settles O10: `step_by_label` at each of the seven labels. -/
theorem eachLabelRunsItsInstruction : Obligations.EachLabelRunsItsInstruction := by
  intro s hquiet
  rw [step_by_label s hquiet]
  refine ⟨?_, ?_, ?_, ?_, ?_, ?_, ?_⟩ <;>
  · intro hp
    rw [hp]

theorem sameButBusy_generatorMove (s : State) : s.dev.sameButBusy s.generatorMove.dev :=
  ⟨generatorMove_div s, generatorMove_pin s, generatorMove_ctl s⟩

theorem step_of_idle {s : State} (hp : s.eng.phase = .idle) : step s = .next (idleStep s).generatorMove := by
  rw [step_by_label s (overrun_of_idle hp), hp]
  rfl

theorem idleStep_of_nil {s : State} (hc : s.env.caller = []) : idleStep s = s := by
  rw [idleStep, hc]

theorem idleStep_of_setPin {s : State} {f : PinFunc} {rest : List CallerAct} (hc : s.env.caller = .setPin f :: rest) :
    idleStep s = { s with dev := { s.dev with pin := f }, env := { s.env with caller := rest } } := by
  rw [idleStep, hc]

theorem idleStep_of_present {s : State} {cmd : Word} {tgt : F64} {waits : Bool} {rest : List CallerAct}
    (hc : s.env.caller = .present cmd tgt waits :: rest) :
    idleStep s = ({ s with env := { s.env with caller := rest } } : State).accept cmd tgt := by
  rw [idleStep, hc]

/-- Settles O11: the idle engine accepts, then the generator makes its move. -/
theorem acceptanceEntersFirstLabel : Obligations.AcceptanceEntersFirstLabel := by
  intro s cmd tgt waits rest i hp hc hdecode
  rw [step_of_idle hp, idleStep_of_present hc, State.accept, hdecode]
  exact ⟨_, rfl, rfl, sameButBusy_generatorMove (State.enter _ i tgt), rfl, rfl, rfl⟩

/-- Settles O13: the two branches of `idleStep` that accept no command, then the generator's move. -/
theorem idleEngineWaits : Obligations.IdleEngineWaits := by
  intro s hp
  rw [step_of_idle hp]
  refine ⟨fun hc => ?_, fun f rest hc => ?_⟩
  · rw [idleStep_of_nil hc]
    exact ⟨_, rfl, rfl, sameButBusy_generatorMove s, rfl, hc, rfl⟩
  · rw [idleStep_of_setPin hc]
    exact ⟨_, rfl, rfl, generatorMove_pin _, sameButBusy_generatorMove _, rfl, rfl, rfl⟩

end Sys2Proof.Machine
end

section
/-! Rules of every step (R16, R26, R33, R63): each is one split over the branches of a micro-step, and the generator's move
changes BUSY alone. -/
namespace Sys2Proof.Machine

/-! ### BUSY (R33) -/

/-- R29, R33: no micro-step changes BUSY. -/
theorem Branch.keeps_busy {s u : State} (hu : Branch s u) : u.dev.ctl.busy = s.dev.ctl.busy := by
  cases hu with
  | disables => exact writeReg_busy ..
  | programs => exact writeReg_busy ..
  | enables => exact writeReg_busy ..
  | _ => rfl

/-- Settles O48: BUSY changes at the generator's move alone, which reads ENAB and KILL as the micro-step left them. -/
theorem busyFollowsItsLaw : Obligations.BusyFollowsItsLaw := by
  constructor
  · intro s t hstep
    obtain ⟨u, hu, rfl⟩ := step_branch hstep
    obtain ⟨-, henab, hkill, -, -⟩ := generatorMove_ctl_fields u
    rw [henab, hkill, ← hu.keeps_busy]
    obtain heq | heq := generatorMove_busy u
    · rw [heq]
      exact ⟨fun hoff hon => absurd hon (by simp [hoff]), fun hon hoff => absurd hoff (by simp [hon])⟩
    · rw [heq]
      exact ⟨fun _ hon => by simpa using hon, fun _ hoff => by simpa using Bool.and_eq_false_iff.mp hoff⟩
  · intro s hmove
    simp [State.generatorMove, hmove, CtlReg.moveBusy]

/-! ### Responses (R26, R63) -/

/-- R63: the fields of RESP do not overlap. -/
theorem toNat_resp (e : Engine) :
    e.resp.toNat = e.res.src.toNat * 2 ^ 8 + e.resValid.toNat * 2 ^ 5 + e.stopTimeout.toNat * 2 ^ 4
      + e.status.code.toNat := by
  have hbit (b : Bool) : ((BitVec.ofBool b).setWidth 32).toNat = b.toNat := by cases b <;> rfl
  have hwide (v : BitVec 4) : (v.setWidth 32).toNat = v.toNat :=
    BitVec.toNat_setWidth_of_le (by decide)
  have hvalid := e.resValid.toNat_le
  have htimeout := e.stopTimeout.toNat_le
  have hlow : ((BitVec.ofBool e.stopTimeout).setWidth 32 <<< 4 ||| e.status.code.setWidth 32 : Word).toNat
      = e.stopTimeout.toNat * 2 ^ 4 + e.status.code.toNat := by
    rw [toNat_shiftLeft_or, hbit, hwide] <;> simp only [hbit, hwide] <;> omega
  have hmid : ((BitVec.ofBool e.resValid).setWidth 32 <<< 5
      ||| ((BitVec.ofBool e.stopTimeout).setWidth 32 <<< 4 ||| e.status.code.setWidth 32) : Word).toNat
      = e.resValid.toNat * 2 ^ 5 + (e.stopTimeout.toNat * 2 ^ 4 + e.status.code.toNat) := by
    rw [toNat_shiftLeft_or, hbit, hlow] <;> simp only [hbit, hlow] <;> omega
  rw [Engine.resp, BitVec.or_assoc, BitVec.or_assoc, toNat_shiftLeft_or, hwide, hmid,
    ← Nat.add_assoc, ← Nat.add_assoc] <;> simp only [hwide, hmid] <;> omega

theorem status_code_le (st : Status) : st.code.toNat ≤ 6 := by
  cases st <;> decide

/-- What a step from `s` to `u` presents: the one response of an ended command, or none. -/
def Reports (s u : State) : Prop :=
  ∃ es, u.trace = s.trace ++ es
    ∧ (u.eng.phase = .idle → es = [u.eng.response] ∨ (es = [] ∧ s.eng.phase = .idle))
    ∧ (u.eng.phase ≠ .idle → ∀ e ∈ es, e.isResponse = false)

theorem reports_finish {s x : State} (hx : x.trace = s.trace) (st : Status) : Reports s (x.finish st) :=
  ⟨_, congrArg (· ++ _) hx, fun _ => .inl rfl, fun hp => absurd rfl hp⟩

theorem reports_silent {s u : State} {es : List Event} (htrace : u.trace = s.trace ++ es) (hp : u.eng.phase ≠ .idle)
    (hes : ∀ e ∈ es, e.isResponse = false) : Reports s u :=
  ⟨es, htrace, fun hidle => absurd hidle hp, fun _ => hes⟩

theorem Branch.reports {s u : State} (hu : Branch s u) : Reports s u := by
  cases hu with
  | waits hp => exact ⟨[], by simp, fun _ => .inr ⟨rfl, hp⟩, by simp⟩
  | setPin f rest hp => exact ⟨[], by simp, fun _ => .inr ⟨rfl, hp⟩, by simp⟩
  | accept cmd tgt waits rest i hp => exact ⟨[], by simp, fun _ => .inr ⟨rfl, hp⟩, by simp⟩
  | illegal => exact reports_finish rfl _
  | answers => exact reports_finish rfl _
  | maps => exact reports_finish rfl _
  | refresh => exact reports_finish rfl _
  | noSource => exact reports_finish rfl _
  | selects => exact reports_silent (es := []) (by simp) nofun (by simp)
  | stops => exact reports_silent (es := []) (by simp) nofun (by simp)
  | reads => exact reports_silent rfl nofun (by simp [Event.isResponse])
  | disables => exact reports_silent rfl nofun (by simp [Event.isResponse])
  | pollsQuiet => exact reports_silent rfl nofun (by simp [Event.isResponse])
  | pollsLast => exact reports_silent rfl nofun (by simp [Event.isResponse])
  | pollsOn =>
    refine reports_silent (es := [.read s.ctlAddr (s.memReadValue .ctl), .wait s.cfg.pollInterval]) ?_ nofun ?_
    · exact List.append_assoc s.trace [_] [_]
    · simp [Event.isResponse]
  | parksFor p _ hfor =>
    have hp : p ≠ .idle := by
      obtain ⟨-, rfl⟩ | ⟨-, rfl⟩ := hfor <;> simp
    exact reports_silent rfl hp (by simp [Event.isResponse])
  | programs => exact reports_silent rfl nofun (by simp [Event.isResponse])
  | settles => exact reports_silent rfl nofun (by simp [Event.isResponse])
  | enables => exact reports_silent rfl nofun (by simp [Event.isResponse])
  | records => exact reports_finish rfl _
  | stopped => exact reports_finish rfl _

/-- Settles O45: RESP as a sum of its fields, and the report of each branch. -/
theorem responsesCarryTheFinalState : Obligations.ResponsesCarryTheFinalState := by
  refine ⟨fun e => ⟨toNat_resp e, status_code_le e.status⟩, fun s t hstep => ?_⟩
  obtain ⟨u, hu, rfl⟩ := step_branch hstep
  exact hu.reports

/-! ### Which label writes which register (R16) -/

/-- What a step from `s` to `u` may change at the engine, by the label it leaves. A clause that a branch leaves out speaks of a
register that the branch does not touch. -/
structure Writes (s u : State) : Prop where
  cfg : u.cfg = s.cfg := by simp
  mapping : u.eng.init ≠ s.eng.init ∨ u.eng.periphBase ≠ s.eng.periphBase → s.eng.phase = .i1 := by simp
  freq : u.eng.freq ≠ s.eng.freq → s.eng.phase = .f1 := by simp
  target : u.eng.reason ≠ s.eng.reason ∨ u.eng.target ≠ s.eng.target → s.eng.phase = .p0 := by simp
  resValid : u.eng.resValid ≠ s.eng.resValid → s.eng.phase = .p0 ∨ s.eng.phase = .p4 ∨ s.eng.phase = .t1 := by simp
  res : u.eng.res ≠ s.eng.res → s.eng.phase = .p0 ∨ s.eng.phase = .p4 := by simp
  pollCount : u.eng.pollCount ≠ s.eng.pollCount → s.eng.phase = .s2 ∨ s.eng.phase = .s3 := by simp
  stopTimeout : u.eng.stopTimeout ≠ s.eng.stopTimeout → s.eng.phase = .idle ∨ s.eng.phase = .s3 := by simp
  status : u.eng.status ≠ s.eng.status → u.eng.phase = .idle := by simp

/-- Each branch names the registers that it writes; the others are unchanged. -/
theorem Branch.writes {s u : State} (hu : Branch s u) : Writes s u := by
  cases hu with
  | waits => exact {}
  | setPin => exact {}
  | accept _ _ _ _ _ hp => exact { stopTimeout := fun _ => .inl hp }
  | illegal _ _ _ _ hp => exact { stopTimeout := fun _ => .inl hp }
  | answers => exact {}
  | maps _ _ hp => exact { mapping := fun _ => hp }
  | refresh _ hp => exact { freq := fun _ => hp }
  | noSource _ hp => exact { target := fun _ => hp, resValid := fun _ => .inl hp, res := fun _ => .inl hp }
  | selects _ _ hp => exact { target := fun _ => hp }
  | stops => exact {}
  | reads => exact {}
  | disables _ _ _ hp => exact { pollCount := fun _ => .inl hp }
  | pollsQuiet hp => exact { pollCount := fun _ => .inr hp }
  | pollsLast hp => exact { pollCount := fun _ => .inr hp, stopTimeout := fun _ => .inr hp }
  | pollsOn hp => exact { pollCount := fun _ => .inr hp }
  | parksFor => exact {}
  | programs => exact {}
  | settles => exact {}
  | enables => exact {}
  | records hp => exact { resValid := fun _ => .inr (.inl hp), res := fun _ => .inr hp }
  | stopped hp => exact { resValid := fun _ => .inr (.inr hp) }

/-- Settles O53: what each branch writes; the generator's move writes no engine register. -/
theorem registersAreWrittenByTheirCommands : Obligations.RegistersAreWrittenByTheirCommands := by
  intro s t hstep
  obtain ⟨u, hu, rfl⟩ := step_branch hstep
  obtain ⟨hcfg, hmapping, hfreq, htarget, hresValid, hres, hpollCount, hstopTimeout, hstatus⟩ := hu.writes
  exact ⟨hcfg, hmapping, hfreq, htarget, hresValid, hres, hpollCount, hstopTimeout, hstatus⟩

end Sys2Proof.Machine
end

section
/-! The free bits of register reads have no influence (R29, R41, R114): two states that differ only in what reads returned, and
will return, in those bits stay so at every step. -/
namespace Sys2Proof.Machine

/-! ### The fields that the engine uses of a read -/

theorem ctlSrcField_and_mask (r : Word) : ctlSrcField (r &&& 0x0000070F#32) = ctlSrcField r := by
  apply bits_ext
  intro k hk
  interval_cases k <;> simp [ctlSrcField]

theorem ctlFlipField_and_mask (r : Word) : ctlFlipField (r &&& 0x0000070F#32) = ctlFlipField r := by
  simp [ctlFlipField]

theorem ctlMashField_and_mask (r : Word) : ctlMashField (r &&& 0x0000070F#32) = ctlMashField r := by
  apply bits_ext
  intro k hk
  interval_cases k <;> simp [ctlMashField]

theorem fields_eq_of_and_mask_eq {r r' : Word} (h : r' &&& 0x0000070F#32 = r &&& 0x0000070F#32) :
    ctlSrcField r' = ctlSrcField r ∧ ctlFlipField r' = ctlFlipField r ∧ ctlMashField r' = ctlMashField r := by
  refine ⟨?_, ?_, ?_⟩
  · rw [← ctlSrcField_and_mask, h, ctlSrcField_and_mask]
  · rw [← ctlFlipField_and_mask, h, ctlFlipField_and_mask]
  · rw [← ctlMashField_and_mask, h, ctlMashField_and_mask]

/-- S1 keeps of a read what CTL holds, whatever its free bits are. -/
theorem readWord_and_mask (c : CtlReg) (free : Word) :
    c.readWord free &&& 0x0000070F#32 = keptFields c.src c.flip c.mash := by
  apply bits_ext
  intro k hk
  interval_cases k <;> simp [CtlReg.readWord, keptFields, BitVec.getLsbD_of_ge]

/-! ### States that differ in free bits alone -/

/-- The state with another value held from S1, other answers for the free bits of reads, and another log. -/
def State.withReads (s : State) (held : Word) (bits : List Word) (log : List Event) : State :=
  { s with eng := { s.eng with ctlRead := held }, env := { s.env with read := bits }, trace := log }

/-- `s'` differs from `s` only in free bits of reads: those to come, those of the value held from S1, and those in the log. -/
def Alike (s s' : State) : Prop :=
  ∃ held bits log, held &&& 0x0000070F#32 = s.eng.ctlRead &&& 0x0000070F#32 ∧ s' = s.withReads held bits log

/-- Both steps answer alike states, or both stop for one reason. -/
inductive AlikeOutcome : (o o' : Host.Outcome State Fault Refusal) → Prop
  | next {t t' : State} (h : Alike t t') : AlikeOutcome (.next t) (.next t')
  | fault (f : Fault) : AlikeOutcome (.fault f) (.fault f)
  | refused (r : Refusal) : AlikeOutcome (.refused r) (.refused r)

theorem AlikeOutcome.ite {c : Prop} [Decidable c] {a a' b b' : Host.Outcome State Fault Refusal}
    (ha : AlikeOutcome a a') (hb : AlikeOutcome b b') : AlikeOutcome (if c then a else b) (if c then a' else b') := by
  split
  · exact ha
  · exact hb

/-! ### Each micro-step keeps them alike -/

theorem measAnswers_withRead (n : ℕ) (e : Env) (bits : List Word) :
    Env.measAnswers n { e with read := bits } = Env.measAnswers n e := by
  induction n generalizing e with
  | zero => rfl
  | succ n ih => exact congrArg (e.measAnswer :: ·) (ih e.takeMeas)

theorem takeMeasN_withRead (n : ℕ) (e : Env) (bits : List Word) :
    Env.takeMeasN n { e with read := bits } = { Env.takeMeasN n e with read := bits } := by
  induction n generalizing e with
  | zero => rfl
  | succ n ih => exact ih e.takeMeas

section

variable (s : State) {held : Word} (bits : List Word) (log : List Event)
  (hheld : held &&& 0x0000070F#32 = s.eng.ctlRead &&& 0x0000070F#32)
include hheld

theorem alike_idleStep : Alike (idleStep s) (idleStep (s.withReads held bits log)) := by
  cases hc : s.env.caller with
  | nil =>
    have hc' : (s.withReads held bits log).env.caller = [] := hc
    rw [idleStep_of_nil hc, idleStep_of_nil hc']
    exact ⟨_, _, _, hheld, rfl⟩
  | cons act rest =>
    have hc' : (s.withReads held bits log).env.caller = act :: rest := hc
    cases act with
    | setPin f =>
      rw [idleStep_of_setPin hc, idleStep_of_setPin hc']
      exact ⟨_, _, _, hheld, rfl⟩
    | present cmd tgt waits =>
      rw [idleStep_of_present hc, idleStep_of_present hc', State.accept, State.accept]
      cases decode (.command cmd tgt) with
      | ok i => exact ⟨_, _, _, hheld, rfl⟩
      | error e => exact ⟨_, _, _, hheld, rfl⟩

theorem alike_initProbe : Alike (initProbe s) (initProbe (s.withReads held bits log)) := by
  have hprobe : (s.withReads held bits log).env.probeAnswer = s.env.probeAnswer := rfl
  have hmap : (s.withReads held bits log).env.takeProbe.mapAnswer = s.env.takeProbe.mapAnswer := rfl
  simp only [initProbe, hprobe, hmap]
  cases s.env.probeAnswer with
  | inconclusive => exact ⟨_, _, _, hheld, rfl⟩
  | known base =>
    cases s.env.takeProbe.mapAnswer with
    | fail => exact ⟨_, _, _, hheld, rfl⟩
    | ok => exact ⟨_, _, _, hheld, rfl⟩

theorem alike_init : AlikeOutcome (exec .init s) (exec .init (s.withReads held bits log)) :=
  .ite (.next ⟨_, _, _, hheld, rfl⟩) (.ite (.refused _) (.next (alike_initProbe s bits log hheld)))

theorem alike_refresh : AlikeOutcome (exec .refresh s) (exec .refresh (s.withReads held bits log)) := by
  simp only [exec, execRefresh, State.withReads, measAnswers_withRead, takeMeasN_withRead]
  exact .next ⟨_, _, _, hheld, rfl⟩

theorem alike_selprogSelect (t : F64) :
    Alike (selprogSelect t s) (selprogSelect t (s.withReads held bits log)) := by
  have hrows : (s.withReads held bits log).rows = s.rows := rfl
  have hcfg : (s.withReads held bits log).cfg = s.cfg := rfl
  simp only [selprogSelect, hrows, hcfg]
  cases select s.cfg.numerics t s.rows with
  | none => exact ⟨_, _, _, hheld, rfl⟩
  | some best => exact ⟨_, _, _, hheld, rfl⟩

theorem alike_selprog (t : F64) :
    AlikeOutcome (exec (.selprog t) s) (exec (.selprog t) (s.withReads held bits log)) :=
  .ite (.next ⟨_, _, _, hheld, rfl⟩)
    (.ite (.next ⟨_, _, _, hheld, rfl⟩) (.next (alike_selprogSelect s bits log hheld t)))

theorem alike_stop : AlikeOutcome (exec .stop s) (exec .stop (s.withReads held bits log)) :=
  .ite (.next ⟨_, _, _, hheld, rfl⟩) (.next ⟨_, _, _, hheld, rfl⟩)

omit hheld in
/-- The values held from S1 differ, but not in the fields that CTL stores. -/
theorem alike_readCtl : Alike (readCtl s) (readCtl (s.withReads held bits log)) :=
  ⟨_, _, _, (readWord_and_mask ..).trans (readWord_and_mask ..).symm, rfl⟩

/-- S3 tests BUSY, which is no free bit. -/
theorem alike_poll : Alike (poll s) (poll (s.withReads held bits log)) := by
  have hdev : (s.withReads held bits log).dev = s.dev := rfl
  have hcfg : (s.withReads held bits log).cfg = s.cfg := rfl
  have hcount : (s.withReads held bits log).eng.pollCount = s.eng.pollCount := rfl
  simp only [poll, ctlBusyField_memReadValue, hdev, hcfg, hcount]
  split_ifs
  · exact ⟨_, _, _, hheld, rfl⟩
  · exact ⟨_, _, _, hheld, rfl⟩
  · exact ⟨_, _, _, hheld, rfl⟩

theorem alike_generatorMove : Alike s.generatorMove (s.withReads held bits log).generatorMove :=
  ⟨_, _, _, hheld, rfl⟩

end

theorem AlikeOutcome.thenGenerator {o o' : Host.Outcome State Fault Refusal} (h : AlikeOutcome o o') :
    AlikeOutcome (thenGenerator o) (thenGenerator o') := by
  cases h with
  | next h =>
    obtain ⟨held, bits, log, hheld, rfl⟩ := h
    exact .next (alike_generatorMove _ bits log hheld)
  | fault f => exact .fault f
  | refused r => exact .refused r

theorem alike_step {s s' : State} (h : Alike s s') : AlikeOutcome (step s) (step s') := by
  obtain ⟨held, bits, log, hheld, rfl⟩ := h
  have hoverrun : (s.withReads held bits log).overrun = s.overrun := rfl
  cases ho : s.overrun with
  | true =>
    simp only [step, hoverrun, ho]
    exact .fault .overrun
  | false =>
    have hphase : (s.withReads held bits log).eng.phase = s.eng.phase := rfl
    rw [step_by_label s ho, step_by_label _ (hoverrun.trans ho), hphase]
    apply AlikeOutcome.thenGenerator
    cases s.eng.phase with
    | idle => exact .next (alike_idleStep s bits log hheld)
    | i1 => exact alike_init s bits log hheld
    | f1 => exact alike_refresh s bits log hheld
    | p0 => exact alike_selprog s bits log hheld s.eng.tgtIn
    | t0 => exact alike_stop s bits log hheld
    | s1 => exact .next (alike_readCtl s bits log)
    | s2 =>
      obtain ⟨hsrc, hflip, hmash⟩ := fields_eq_of_and_mask_eq hheld
      simp only [State.withReads, hsrc, hflip, hmash]
      exact .next ⟨_, _, _, hheld, rfl⟩
    | s3 => exact .next (alike_poll s bits log hheld)
    | s4 => exact .next ⟨_, _, _, hheld, rfl⟩
    | p1 => exact .next ⟨_, _, _, hheld, rfl⟩
    | p2 => exact .next ⟨_, _, _, hheld, rfl⟩
    | p3 => exact .next ⟨_, _, _, hheld, rfl⟩
    | p4 => exact .next ⟨_, _, _, hheld, rfl⟩
    | t1 => exact .next ⟨_, _, _, hheld, rfl⟩

theorem alike_run (k : ℕ) {s s' t : State} (h : Alike s s') (hrun : run k s = .next t) :
    ∃ t', run k s' = .next t' ∧ Alike t t' := by
  induction k generalizing s s' with
  | zero =>
    cases hrun
    exact ⟨s', rfl, h⟩
  | succ k ih =>
    have hstep := alike_step h
    unfold run at hrun ⊢
    generalize step s = o at hrun hstep
    generalize step s' = o' at hstep ⊢
    cases hstep with
    | next hnext => exact ih hnext hrun
    | fault f => cases hrun
    | refused r => cases hrun

/-- Settles O54: the two runs start alike and stay so. -/
theorem reservedBitsHaveNoInfluence : Obligations.ReservedBitsHaveNoInfluence := by
  intro k s t bits hrun
  have hstart : Alike s { s with env := { s.env with read := bits } } := ⟨_, _, _, rfl, rfl⟩
  obtain ⟨t', hrun', held, bits', log, hheld, rfl⟩ := alike_run k hstart hrun
  refine ⟨_, hrun', rfl, rfl, ?_⟩
  simp only [State.withReads, hheld]

end Sys2Proof.Machine
end

section
/-! The refusal of a misaligned probe (R43, R137), and the register accesses of a step: where they go (R43, R44), which they
are (R45), and what S1, S2 and S3 do with them (R114, R116, R117). -/
namespace Sys2Proof.Machine

/-! ### Refusals (R43, R137) -/

theorem probeMisaligned_iff (e : Env) :
    e.probeMisaligned = true ↔ ∃ base : Word, e.probe.head? = some (.known base) ∧ base.toNat % 4096 ≠ 0 := by
  unfold Env.probeMisaligned
  split
  next base hhead => simp [hhead, baseAligned, Config.pageSize]
  next hhead => exact ⟨nofun, fun ⟨base, hknown, _⟩ => absurd hknown (hhead base)⟩

theorem exec_init_refused_iff {s : State} {r : Refusal} :
    exec .init s = .refused r ↔
      r = .probeBaseMisaligned ∧ s.eng.init = false ∧ s.env.probeMisaligned = true := by
  simp only [exec, execInit]
  split
  next hinit => simp [hinit]
  next hinit =>
    split
    next hprobe => simp [hinit, hprobe, eq_comm]
    next hprobe => simp [hprobe]

/-- Settles O17: a misaligned answer is not free, and INIT refuses a given one. -/
theorem initRefusesMisalignedBase : Obligations.InitRefusesMisalignedBase := by
  intro s base hinit hknown hbase
  have hgiven : s.env.probeMisaligned = true := by
    by_contra hfree
    exact hbase (probeAnswer_aligned (by simpa using hfree) hknown)
  exact exec_init_refused_iff.mpr ⟨rfl, hinit, hgiven⟩

theorem exec_selprog_ne_refused (t : F64) (s : State) (r : Refusal) : exec (.selprog t) s ≠ .refused r := by
  simp only [exec, execSelprog]
  split
  · simp
  · split <;> simp

theorem exec_stop_ne_refused (s : State) (r : Refusal) : exec .stop s ≠ .refused r := by
  unfold exec execStop
  split_ifs <;> simp

theorem thenGenerator_refused {o : Host.Outcome State Fault Refusal} {r : Refusal} :
    thenGenerator o = .refused r ↔ o = .refused r := by
  cases o <;> simp [thenGenerator]

theorem step_of_overrun {s : State} (ho : s.overrun = true) : step s = .fault .overrun := by
  simp [step, ho]

/-- Of the labels' micro-steps INIT alone can be refused. -/
theorem step_refused_iff {s : State} {r : Refusal} (ho : s.overrun = false) :
    step s = .refused r ↔ s.eng.phase = .i1 ∧ exec .init s = .refused r := by
  rw [step_by_label s ho, thenGenerator_refused]
  cases s.eng.phase with
  | i1 => simp
  | p0 => simp [exec_selprog_ne_refused]
  | t0 => simp [exec_stop_ne_refused]
  | _ => simp [exec, execRefresh, execWrDiv, execWrCtlEnable, execWrCtlDisable]

/-- Settles O15: an overrun is a fault; else only I1 can refuse, on a misaligned probe answer. -/
theorem refusalIsExactlyMisalignedProbe : Obligations.RefusalIsExactlyMisalignedProbe := by
  intro s r
  cases ho : s.overrun with
  | true => simp [step_of_overrun ho]
  | false =>
    rw [step_refused_iff ho, exec_init_refused_iff, probeMisaligned_iff]
    tauto

/-! ### The access table (R45) -/

/-- The accesses of a label's micro-step (R45). -/
def State.accesses (s : State) : Phase → List Event
  | .s1 => [.read s.ctlAddr (s.memReadValue .ctl)]
  | .s2 => [.write s.ctlAddr (disableWord s.eng.ctlRead)]
  | .s3 => [.read s.ctlAddr (s.memReadValue .ctl)]
  | .p1 => [.write s.divAddr (divWord s.eng.sel.divI s.eng.sel.divF)]
  | .p3 => [.write s.ctlAddr (enableWord s.eng.sel.src)]
  | _ => []

/-- Among the events that a step from `s` to `u` adds, the accesses are those of its label. -/
def AccessesByTable (s u : State) : Prop :=
  ∃ es, u.trace = s.trace ++ es ∧ es.filter Event.isAccess = s.accesses s.eng.phase

theorem accessesByTable_of_phase {s u : State} {p : Phase} {es : List Event} (hp : s.eng.phase = p)
    (htrace : u.trace = s.trace ++ es) (hes : es.filter Event.isAccess = s.accesses p) : AccessesByTable s u :=
  ⟨es, htrace, by rw [hp, hes]⟩

theorem accessesByTable_silent {s u : State} (htrace : u.trace = s.trace) (hnone : s.accesses s.eng.phase = []) :
    AccessesByTable s u :=
  ⟨[], by rw [htrace, List.append_nil], by rw [hnone, List.filter_nil]⟩

theorem Branch.accessesByTable {s u : State} (hu : Branch s u) : AccessesByTable s u := by
  cases hu with
  | waits hp => exact accessesByTable_silent rfl (by rw [hp]; rfl)
  | setPin f rest hp => exact accessesByTable_silent rfl (by rw [hp]; rfl)
  | accept cmd tgt waits rest i hp => exact accessesByTable_silent rfl (by rw [hp]; rfl)
  | illegal cmd tgt waits rest hp => exact accessesByTable_of_phase hp rfl rfl
  | answers env st hp =>
    obtain hp | hp | hp := hp
    · exact accessesByTable_of_phase hp rfl rfl
    · exact accessesByTable_of_phase hp rfl rfl
    · exact accessesByTable_of_phase hp rfl rfl
  | maps env base hp => exact accessesByTable_of_phase hp rfl rfl
  | refresh env hp => exact accessesByTable_of_phase hp rfl rfl
  | noSource t hp => exact accessesByTable_of_phase hp rfl rfl
  | selects t best hp => exact accessesByTable_silent rfl (by rw [hp]; rfl)
  | stops hp => exact accessesByTable_silent rfl (by rw [hp]; rfl)
  | reads hp => exact accessesByTable_of_phase hp rfl rfl
  | disables src flip mash hp hsrc hflip hmash =>
    rw [hsrc, hflip, hmash, disableWord_keptFields]
    exact accessesByTable_of_phase hp rfl rfl
  | pollsQuiet hp => exact accessesByTable_of_phase hp rfl rfl
  | pollsLast hp => exact accessesByTable_of_phase hp rfl rfl
  | pollsOn hp => exact accessesByTable_of_phase hp (List.append_assoc s.trace [_] [_]) rfl
  | parksFor p hp => exact accessesByTable_of_phase hp rfl rfl
  | programs hp => exact accessesByTable_of_phase hp rfl rfl
  | settles hp => exact accessesByTable_of_phase hp rfl rfl
  | enables hp => exact accessesByTable_of_phase hp rfl rfl
  | records hp => exact accessesByTable_of_phase hp rfl rfl
  | stopped hp => exact accessesByTable_of_phase hp rfl rfl

theorem step_accessesByTable {s t : State} (h : step s = .next t) : AccessesByTable s t := by
  obtain ⟨u, hu, rfl⟩ := step_branch h
  exact hu.accessesByTable

theorem accesses_eq_nil (s : State) {p : Phase} (hs1 : p ≠ .s1) (hs2 : p ≠ .s2) (hs3 : p ≠ .s3) (hp1 : p ≠ .p1)
    (hp3 : p ≠ .p3) : s.accesses p = [] := by
  cases p with
  | s1 => exact absurd rfl hs1
  | s2 => exact absurd rfl hs2
  | s3 => exact absurd rfl hs3
  | p1 => exact absurd rfl hp1
  | p3 => exact absurd rfl hp3
  | _ => rfl

/-- Settles O49: the table's row at the label of the step. -/
theorem accessesAreThoseOfTheTable : Obligations.AccessesAreThoseOfTheTable := by
  intro s t hstep
  obtain ⟨es, htrace, hes⟩ := step_accessesByTable hstep
  refine ⟨es, htrace, ?_⟩
  rw [hes]
  refine ⟨?_, ?_, ?_, ?_, accesses_eq_nil s⟩
  · rintro (hp | hp)
    · rw [hp, State.accesses]
    · rw [hp, State.accesses]
  · intro hp
    rw [hp, State.accesses]
  · intro hp
    rw [hp, State.accesses]
  · intro hp
    rw [hp, State.accesses]

/-! ### Addresses (R43, R44) -/

/-- R44: the two addresses as numbers. -/
theorem toNat_regAddr (s : State) :
    s.ctlAddr.toNat = (s.eng.periphBase.toNat + 4 * s.cfg.cmBlockOffset.toNat + 4 * s.cfg.ctlOffset.toNat) % 2 ^ 32
      ∧ s.divAddr.toNat
        = (s.eng.periphBase.toNat + 4 * s.cfg.cmBlockOffset.toNat + 4 * s.cfg.divOffset.toNat) % 2 ^ 32 := by
  simp [State.ctlAddr, State.divAddr, State.cmBase]

/-- The base is page-aligned and the offsets count words, so both registers are word-aligned (R43). -/
theorem State.Inv.regAddr_aligned {s : State} (h : s.Inv) (reg : BusReg) : (s.regAddr reg).toNat % 4 = 0 := by
  have hbase := h.baseAligned
  obtain ⟨hctl, hdiv⟩ := toNat_regAddr s
  cases reg with
  | ctl =>
    rw [State.regAddr]
    omega
  | div =>
    rw [State.regAddr]
    omega

/-- Every access of the table is at one of the two registers. -/
theorem accesses_at_regAddr (s : State) (p : Phase) : ∀ e ∈ s.accesses p,
    ∃ reg v, e = .read (s.regAddr reg) v ∨ e = .write (s.regAddr reg) v := by
  cases p with
  | s1 => exact List.forall_mem_singleton.mpr ⟨.ctl, _, .inl rfl⟩
  | s2 => exact List.forall_mem_singleton.mpr ⟨.ctl, _, .inr rfl⟩
  | s3 => exact List.forall_mem_singleton.mpr ⟨.ctl, _, .inl rfl⟩
  | p1 => exact List.forall_mem_singleton.mpr ⟨.div, _, .inr rfl⟩
  | p3 => exact List.forall_mem_singleton.mpr ⟨.ctl, _, .inr rfl⟩
  | _ => exact List.forall_mem_nil _

theorem address_of_mem_accesses {s : State} {p : Phase} {a v : Word}
    (h : .read a v ∈ s.accesses p ∨ .write a v ∈ s.accesses p) : ∃ reg, a = s.regAddr reg := by
  obtain hread | hwrite := h
  · obtain ⟨reg, w, heq | heq⟩ := accesses_at_regAddr s p _ hread
    · exact ⟨reg, (Event.read.inj heq).1⟩
    · cases heq
  · obtain ⟨reg, w, heq | heq⟩ := accesses_at_regAddr s p _ hwrite
    · cases heq
    · exact ⟨reg, (Event.write.inj heq).1⟩

/-- Settles O40: the two sums, and the table's addresses. -/
theorem registerAddressesAreAlignedSums : Obligations.RegisterAddressesAreAlignedSums := by
  refine ⟨toNat_regAddr, fun s t hinv hstep es htrace a v hmem => ?_⟩
  obtain ⟨es', htrace', hes⟩ := step_accessesByTable hstep
  obtain rfl : es' = es := List.append_cancel_left (htrace'.symm.trans htrace)
  have hlisted : .read a v ∈ s.accesses s.eng.phase ∨ .write a v ∈ s.accesses s.eng.phase := by
    simpa [← hes, List.mem_filter, Event.isAccess] using hmem
  obtain ⟨reg, rfl⟩ := address_of_mem_accesses hlisted
  exact hinv.regAddr_aligned reg

/-! ### The disable (R114) -/

theorem step_of_s1 {s : State} (hp : s.eng.phase = .s1) (hquiet : s.env.presentsNow = false) :
    step s = .next (readCtl s).generatorMove := by
  rw [step_by_label s (overrun_of_quiet hquiet), hp]
  rfl

/-- The state once S2 has written the disable word of the value held from S1 (R70, R114). -/
def disableCtl (s : State) : State :=
  ({ s.memWrite .ctl (disableWord s.eng.ctlRead) with eng := { s.eng with pollCount := 0 } } : State).goto .s3

theorem step_of_s2 {s : State} (hp : s.eng.phase = .s2) (hquiet : s.env.presentsNow = false) :
    step s = .next (disableCtl s).generatorMove := by
  rw [step_by_label s (overrun_of_quiet hquiet), hp, disableCtl, ← disableWord_keptFields s.eng.ctlRead]
  rfl

theorem run_two {s t u : State} (hfirst : step s = .next t) (hsecond : step t = .next u) : run 2 s = .next u := by
  simp [run, hfirst, hsecond]

/-- Writing back what a read of CTL gave keeps SRC, FLIP and MASH, whatever the free bits of the read (R41, R70). -/
theorem writeReg_disableWord_readWord (d : Device) (c : CtlReg) (free : Word) :
    d.writeReg .ctl (disableWord (c.readWord free))
      = { d with ctl := ⟨c.src, false, false, d.ctl.busy, c.flip, c.mash⟩ } := by
  rw [writeReg_ctl d (passwdField_disableWord _), load_disableWord, ctlSrcField_readWord, ctlFlipField_readWord,
    ctlMashField_readWord]

theorem disableCtl_readCtl_dev (s : State) :
    (disableCtl (readCtl s).generatorMove).dev
      = { (readCtl s).generatorMove.dev with
          ctl := ⟨s.dev.ctl.src, false, false, (readCtl s).generatorMove.dev.ctl.busy, s.dev.ctl.flip, s.dev.ctl.mash⟩ } :=
  writeReg_disableWord_readWord ..

/-- Settles O42: S1 and S2 one after the other, each followed by the generator's move. -/
theorem disableKeepsSourceFlipAndMash : Obligations.DisableKeepsSourceFlipAndMash := by
  intro s hp hquiet
  obtain ⟨hdiv, hpin, hctl⟩ := sameButBusy_generatorMove (disableCtl (readCtl s).generatorMove)
  rw [disableCtl_readCtl_dev] at hdiv hpin hctl
  exact ⟨_, run_two (step_of_s1 hp hquiet) (step_of_s2 rfl hquiet), hctl, hdiv.trans (generatorMove_div _),
    hpin.trans (generatorMove_pin _), rfl, List.append_assoc s.trace [_] [_]⟩

/-! ### The poll (R116, R117) -/

theorem step_of_s3 {s : State} (hp : s.eng.phase = .s3) (hquiet : s.env.presentsNow = false) :
    step s = .next (poll s).generatorMove := by
  rw [step_by_label s (overrun_of_quiet hquiet), hp]
  rfl

theorem poll_eq (s : State) : poll s =
    if s.dev.ctl.busy = false then s.counted.goto .s4
    else if s.eng.pollCount + 1 = (s.cfg.pollMax : ℕ) then
      ({ s.counted with eng := { s.counted.eng with stopTimeout := true } } : State).goto .s4
    else (s.counted.wait s.cfg.pollInterval).goto .s3 := by
  rw [poll, ctlBusyField_memReadValue]
  rfl

/-- R46: a poll changes nothing at the device. -/
@[simp] theorem poll_dev (s : State) : (poll s).dev = s.dev := by
  rw [poll_eq]
  split_ifs <;> rfl

/-- Settles O43: the three ends of a poll. -/
theorem pollEndsOnNotBusyOrAtTheBound : Obligations.PollEndsOnNotBusyOrAtTheBound := by
  intro s hp hquiet
  have hdev := sameButBusy_generatorMove (poll s)
  rw [poll_dev] at hdev
  refine ⟨_, step_of_s3 hp hquiet, hdev, fun hfree => ?_, fun hbusy hlast => ?_, fun hbusy hleft => ?_⟩
  · rw [poll_eq, if_pos hfree]
    exact ⟨rfl, rfl⟩
  · rw [poll_eq, if_neg (by simp [hbusy]), if_pos hlast]
    exact ⟨rfl, rfl⟩
  · rw [poll_eq, if_neg (by simp [hbusy]), if_neg hleft]
    exact ⟨rfl, List.append_assoc s.trace [_] [_]⟩

end Sys2Proof.Machine
end

section
/-! The decoder and the encoder are inverse to one another (R57 to R59, R67 to R72), and a program's words (R61, R62). -/
namespace Sys2Proof

/-! ### Every instruction is decoded from its own encoding -/

/-- Settles O4: by instruction; the fields of the three register words are read back as they were put in. -/
theorem decodeOfEncodeIsIdentity : Obligations.DecodeOfEncodeIsIdentity := by
  intro i
  cases i with
  | init => rfl
  | refresh => rfl
  | selprog tgt => rfl
  | stop => rfl
  | wrDiv divI divF => exact decode_divWord divI divF
  | wrCtlEnable src => exact decode_enableWord src
  | wrCtlDisable src flip mash =>
    obtain ⟨hsrc, hflip, hmash⟩ := Machine.fields_keptFields src flip mash
    rw [encode, decode_disableWord, hsrc, hflip, hmash]

/-- Settles O7: each word is the encoding of its instruction. -/
theorem sampleWordsDecode : Obligations.SampleWordsDecode :=
  ⟨decodeOfEncodeIsIdentity .init, decodeOfEncodeIsIdentity (.selprog 0x40F2EBC000000000#64),
    decodeOfEncodeIsIdentity (.wrDiv 247#12 760#10), decodeOfEncodeIsIdentity (.wrCtlEnable 7#4),
    decodeOfEncodeIsIdentity (.wrCtlDisable 6#4 true 2#2)⟩

/-! ### Command words (R57, R59) -/

/-- A row of the command interface fixes all 32 bits. -/
theorem selects_of_full_mask (name : String) (reg : Option BusReg) (pattern w : Word) :
    (OpcodeRow.mk name reg pattern 0xFFFFFFFF#32).selects w = (w == pattern) := by
  have hmask : w &&& 0xFFFFFFFF#32 = w := BitVec.and_allOnes
  rw [OpcodeRow.selects, hmask]

theorem decodeCommand_eq (cmd : Word) (tgt : F64) : decodeCommand cmd tgt =
    if cmd = 1#32 then .ok .init
    else if cmd = 2#32 then .ok .refresh
    else if cmd = 3#32 then .ok (.selprog tgt)
    else if cmd = 4#32 then .ok .stop
    else .error (.illegalCommand cmd) := by
  simp only [decodeCommand, rowInit, rowRefresh, rowSelprog, rowStop, selects_of_full_mask, beq_iff_eq]

theorem decodeCommand_ok {cmd : Word} {tgt : F64} {i : Instr} (h : decodeCommand cmd tgt = .ok i) :
    cmd = 1#32 ∧ i = .init ∨ cmd = 2#32 ∧ i = .refresh ∨ cmd = 3#32 ∧ i = .selprog tgt ∨ cmd = 4#32 ∧ i = .stop := by
  rw [decodeCommand_eq] at h
  split_ifs at h with h1 h2 h3 h4 <;> cases h
  · exact .inl ⟨h1, rfl⟩
  · exact .inr (.inl ⟨h2, rfl⟩)
  · exact .inr (.inr (.inl ⟨h3, rfl⟩))
  · exact .inr (.inr (.inr ⟨h4, rfl⟩))

theorem decodeCommand_of_illegal {cmd : Word} (h : cmd.toNat = 0 ∨ 4 < cmd.toNat) (tgt : F64) :
    decodeCommand cmd tgt = .error (.illegalCommand cmd) := by
  have hne (v : Word) (hv : 1 ≤ v.toNat ∧ v.toNat ≤ 4) : cmd ≠ v := by
    rintro rfl
    omega
  rw [decodeCommand_eq, if_neg (hne _ (by decide)), if_neg (hne _ (by decide)), if_neg (hne _ (by decide)),
    if_neg (hne _ (by decide))]

/-- Settles O6: the four opcodes, and every other word. -/
theorem commandWordsAreTheFourOpcodes : Obligations.CommandWordsAreTheFourOpcodes := by
  intro cmd tgt
  refine ⟨fun h => ?_, fun h => ?_, fun h => ?_, fun h => ?_, fun h => decodeCommand_of_illegal h tgt⟩
  · obtain rfl : cmd = 1#32 := BitVec.eq_of_toNat_eq h
    rfl
  · obtain rfl : cmd = 2#32 := BitVec.eq_of_toNat_eq h
    rfl
  · obtain rfl : cmd = 3#32 := BitVec.eq_of_toNat_eq h
    rfl
  · obtain rfl : cmd = 4#32 := BitVec.eq_of_toNat_eq h
    rfl

/-! ### Register words (R67 to R71) -/

/-- A word that selects a row is the row's pattern with the word's own bits outside the mask. -/
theorem OpcodeRow.eq_pattern_or {r : OpcodeRow} {w : Word} (h : r.selects w = true) :
    w = r.pattern ||| (w &&& ~~~r.mask) := by
  have hfixed : w &&& r.mask = r.pattern := by simpa [OpcodeRow.selects] using h
  rw [← hfixed, ← BitVec.and_or_distrib_left, BitVec.or_not_self, BitVec.and_allOnes]

theorem divWord_fields {w : Word} (h : rowWrDiv.selects w = true) : divWord (divIField w) (divFField w) = w := by
  have hw : w = 0x5A000000#32 ||| (w &&& 0x00FFF3FF#32) := OpcodeRow.eq_pattern_or h
  rw [hw]
  apply bits_ext
  intro k hk
  interval_cases k <;> simp [divWord, divIField, divFField, Config.passwd, BitVec.getLsbD_of_ge]

theorem enableWord_field {w : Word} (h : rowWrCtlEnable.selects w = true) : enableWord (ctlSrcField w) = w := by
  have hw : w = 0x5A000210#32 ||| (w &&& 0x0000000F#32) := OpcodeRow.eq_pattern_or h
  rw [hw]
  apply bits_ext
  intro k hk
  interval_cases k <;> simp [enableWord, ctlSrcField, Config.passwd, Config.mashMode, BitVec.getLsbD_of_ge]

theorem disableWord_fields {w : Word} (h : rowWrCtlDisable.selects w = true) :
    disableWord (keptFields (ctlSrcField w) (ctlFlipField w) (ctlMashField w)) = w :=
  (disableWord_keptFields w).trans (OpcodeRow.eq_pattern_or h).symm

theorem encode_of_decodeWrite {reg : BusReg} {w : Word} {i : Instr} (h : decodeWrite reg w = .ok i) :
    encode i = .write reg w := by
  unfold decodeWrite at h
  split at h
  · cases h
  cases reg with
  | div =>
    dsimp only at h
    split at h
    next hsel =>
      cases h
      rw [encode, divWord_fields hsel]
    · cases h
  | ctl =>
    dsimp only at h
    split at h
    next hsel =>
      cases h
      rw [encode, enableWord_field hsel]
    split at h
    next hsel =>
      cases h
      rw [encode, disableWord_fields hsel]
    · cases h

/-- Settles O5: a register word by the row that selects it, a command word by its opcode. -/
theorem encodeOfDecodeIsIdentity : Obligations.EncodeOfDecodeIsIdentity := by
  refine ⟨fun reg w i => encode_of_decodeWrite, fun cmd tgt i h => ?_⟩
  obtain ⟨rfl, rfl⟩ | ⟨rfl, rfl⟩ | ⟨rfl, rfl⟩ | ⟨rfl, rfl⟩ := decodeCommand_ok h
  · rfl
  · rfl
  · rfl
  · rfl

/-! ### Programs (R61, R62) -/

theorem ofRat_77500 : F64.ofRat 77500 = 0x40F2EBC000000000#64 := by
  decide +kernel

theorem ofRat_neg_five : F64.ofRat (-5) = 0xC014000000000000#64 := by
  decide +kernel

/-- Settles O55: the two expansions, and the two literals. -/
theorem startIsRefreshThenSelprog : Obligations.StartIsRefreshThenSelprog := by
  refine ⟨fun x => ⟨rfl, rfl⟩, ?_, ?_⟩
  · rw [ProgramLine.commands, ofRat_77500]
  · rw [ProgramLine.commands, ofRat_neg_five]

end Sys2Proof
end

section
/-! Placing an instruction (R71, R72), the one fault (R56, R137), and the words that a step writes (R68). -/
namespace Sys2Proof.Machine

/-! ### Placed instructions -/

theorem placeInstr_presentsNow (s : State) (i : Instr) : (s.placeInstr i).env.presentsNow = false := by
  have hcaller : (s.placeInstr i).env.caller = if s.env.presentsNow then [] else s.env.caller := by
    cases i <;> rfl
  rw [Env.presentsNow, hcaller]
  cases hnow : s.env.presentsNow with
  | true => rfl
  | false => exact hnow

/-- The label of a placed instruction carries it. -/
theorem nextAction_placeInstr (s : State) (i : Instr) :
    ∃ tr, (s.placeInstr i).nextAction = .transfer tr ∧ decode tr = .ok i := by
  cases i with
  | init => exact ⟨_, rfl, rfl⟩
  | refresh => exact ⟨_, rfl, rfl⟩
  | selprog tgt => exact ⟨_, rfl, rfl⟩
  | stop => exact ⟨_, rfl, rfl⟩
  | wrDiv divI divF => exact ⟨_, rfl, decodeOfEncodeIsIdentity (.wrDiv divI divF)⟩
  | wrCtlEnable src => exact ⟨_, rfl, decodeOfEncodeIsIdentity (.wrCtlEnable src)⟩
  | wrCtlDisable src flip mash => exact ⟨_, rfl, decodeOfEncodeIsIdentity (.wrCtlDisable src flip mash)⟩

theorem step_placeInstr (s : State) (i : Instr) :
    step (s.placeInstr i) = thenGenerator (exec i (s.placeInstr i)) := by
  obtain ⟨tr, haction, hdecode⟩ := nextAction_placeInstr s i
  exact stepRunsTheDecodedInstruction _ tr i (overrun_of_quiet (placeInstr_presentsNow s i)) haction hdecode

/-- Settles O8: the state that stands for the word is the one where its instruction is placed. -/
theorem placedWordIsRunNext : Obligations.PlacedWordIsRunNext := by
  intro s nbits w i hword
  have hplace : s.withFetchWord nbits w = s.placeInstr i := by rw [State.withFetchWord, hword]
  rw [hplace]
  exact step_placeInstr s i

/-! ### The fault (R56, R137) -/

theorem presentsNow_iff (e : Env) :
    e.presentsNow = true ↔ ∃ cmd tgt, e.caller.head? = some (.present cmd tgt false) := by
  unfold Env.presentsNow
  split
  next cmd tgt waits hhead => simp [hhead]
  next hhead => exact ⟨nofun, fun ⟨cmd, tgt, hnow⟩ => absurd hnow (hhead cmd tgt false)⟩

theorem overrun_iff (s : State) : s.overrun = true ↔
    s.eng.phase ≠ .idle ∧ ∃ cmd tgt, s.env.caller.head? = some (.present cmd tgt false) := by
  rw [State.overrun, Bool.and_eq_true, bne_iff_ne, presentsNow_iff]

/-- No instruction's meaning is a fault. -/
theorem exec_ne_fault (i : Instr) (s : State) (f : Fault) : exec i s ≠ .fault f := by
  cases i with
  | init =>
    unfold exec execInit
    split_ifs <;> simp
  | refresh => exact nofun
  | selprog tgt =>
    simp only [exec, execSelprog]
    split
    · simp
    · split <;> simp
  | stop =>
    unfold exec execStop
    split_ifs <;> simp
  | wrDiv divI divF => exact nofun
  | wrCtlEnable src => exact nofun
  | wrCtlDisable src flip mash => exact nofun

theorem thenGenerator_fault {o : Host.Outcome State Fault Refusal} {f : Fault} :
    thenGenerator o = .fault f ↔ o = .fault f := by
  cases o <;> simp [thenGenerator]

theorem step_ne_fault {s : State} (ho : s.overrun = false) (f : Fault) : step s ≠ .fault f := by
  rw [step, if_neg (by simp [ho])]
  split
  next tr _ =>
    cases decode tr with
    | ok i => exact mt thenGenerator_fault.mp (exec_ne_fault i s f)
    | error e => exact nofun
  next m _ => exact nofun

/-- Settles O14: an overrun is the one fault, and no other step faults. -/
theorem faultIsExactlyOverrun : Obligations.FaultIsExactlyOverrun := by
  intro s f
  rw [← overrun_iff]
  cases ho : s.overrun with
  | true => exact iff_of_true (step_of_overrun ho) rfl
  | false => exact iff_of_false (step_ne_fault ho f) nofun

/-! ### The words that a step writes (R68) -/

/-- The words that the engine writes from `s` at a label. -/
theorem word_of_write_mem_accesses {s : State} {p : Phase} {a w : Word} (h : .write a w ∈ s.accesses p) :
    p = .s2 ∧ w = disableWord s.eng.ctlRead ∨ p = .p1 ∧ w = divWord s.eng.sel.divI s.eng.sel.divF
      ∨ p = .p3 ∧ w = enableWord s.eng.sel.src := by
  cases p with
  | s2 => exact .inl ⟨rfl, (Event.write.inj (List.mem_singleton.mp h)).2⟩
  | p1 => exact .inr (.inl ⟨rfl, (Event.write.inj (List.mem_singleton.mp h)).2⟩)
  | p3 => exact .inr (.inr ⟨rfl, (Event.write.inj (List.mem_singleton.mp h)).2⟩)
  | s1 => cases List.mem_singleton.mp h
  | s3 => cases List.mem_singleton.mp h
  | _ => cases h

theorem write_mem_accesses {s t : State} (hstep : step s = .next t) {es : List Event} (htrace : t.trace = s.trace ++ es)
    {a w : Word} (hmem : .write a w ∈ es) : .write a w ∈ s.accesses s.eng.phase := by
  obtain ⟨es', htrace', hes⟩ := step_accessesByTable hstep
  obtain rfl : es' = es := List.append_cancel_left (htrace'.symm.trans htrace)
  rw [← hes]
  exact List.mem_filter.mpr ⟨hmem, rfl⟩

theorem divWord_and_reserved (divI : BitVec 12) (divF : BitVec 10) : divWord divI divF &&& 0x00000C00#32 = 0#32 := by
  apply bits_ext
  intro k hk
  interval_cases k <;> simp [divWord, Config.passwd, BitVec.getLsbD_of_ge]

theorem disableWord_and_reserved (r : Word) : disableWord r &&& 0x00FFF840#32 = 0#32 := by
  apply bits_ext
  intro k hk
  interval_cases k <;> simp [disableWord, Config.passwd]

theorem enableWord_and_reserved : ∀ src : BitVec 4, enableWord src &&& 0x00FFF840#32 = 0#32 := by
  decide

/-- Settles O50: the password and the reserved bits of each of the three words of the access table. -/
theorem writtenWordsCarryPasswordAndNoReservedBit : Obligations.WrittenWordsCarryPasswordAndNoReservedBit := by
  intro s t hstep es htrace a w hmem
  rw [← passwdField_eq_passwd_iff]
  obtain ⟨hp, rfl⟩ | ⟨hp, rfl⟩ | ⟨hp, rfl⟩ := word_of_write_mem_accesses (write_mem_accesses hstep htrace hmem)
  · exact ⟨passwdField_disableWord _, fun hp1 => by simp [hp] at hp1, fun _ => disableWord_and_reserved _⟩
  · exact ⟨passwdField_divWord .., fun _ => divWord_and_reserved .., fun hp1 => absurd hp hp1⟩
  · exact ⟨passwdField_enableWord _, fun hp1 => by simp [hp] at hp1, fun _ => enableWord_and_reserved _⟩

end Sys2Proof.Machine
end

section
/-! INIT and REFRESH (R77 to R82): INIT's ends, one equation per answer of the probe and of the map; the measurement answers
in the order they are drawn; and what is stored for one. -/
namespace Sys2Proof.Machine

/-! ### INIT (R43, R77, R78) -/

section

variable {s : State}

theorem exec_init_of_initialized (hinit : s.eng.init = true) : exec .init s = .next (s.finish .ok) := by
  simp [exec, execInit, hinit]

/-- R43: a given misaligned base is the probe's answer, so a probe that answers no such base is let through. -/
theorem probeMisaligned_eq_false {e : Env} (h : ∀ base, e.probeAnswer = .known base → base.toNat % 4096 = 0) :
    e.probeMisaligned = false := by
  by_contra hgiven
  obtain ⟨base, hhead, hbase⟩ := (probeMisaligned_iff e).mp (by simpa using hgiven)
  refine hbase (h base ?_)
  rw [Env.probeAnswer, List.headD_eq_head?_getD, hhead, Option.getD_some]

theorem exec_init_of_aligned (hinit : s.eng.init = false)
    (haligned : ∀ base, s.env.probeAnswer = .known base → base.toNat % 4096 = 0) :
    exec .init s = .next (initProbe s) := by
  simp [exec, execInit, hinit, probeMisaligned_eq_false haligned]

theorem exec_init_of_inconclusive (hinit : s.eng.init = false) (hprobe : s.env.probeAnswer = .inconclusive) :
    exec .init s = .next (({ s with env := s.env.takeProbe } : State).finish .unsupportedPlatform) := by
  rw [exec_init_of_aligned hinit (by simp [hprobe])]
  simp only [initProbe, hprobe]

variable {base : Word} (hinit : s.eng.init = false) (hprobe : s.env.probeAnswer = .known base)
  (hbase : base.toNat % 4096 = 0)

include hinit hprobe hbase

theorem exec_init_of_mapFail (hmap : s.env.takeProbe.mapAnswer = .fail) :
    exec .init s = .next (({ s with env := s.env.takeProbe.takeMap } : State).finish .hardwareUnavailable) := by
  rw [exec_init_of_aligned hinit (by simp [hprobe, hbase])]
  simp only [initProbe, hprobe, hmap]

theorem exec_init_of_mapOk (hmap : s.env.takeProbe.mapAnswer = .ok) :
    exec .init s = .next (({ s with
      env := s.env.takeProbe.takeMap, eng := { s.eng with periphBase := base, init := true } } : State).finish .ok) := by
  rw [exec_init_of_aligned hinit (by simp [hprobe, hbase])]
  simp only [initProbe, hprobe, hmap]

end

/-- Settles O16: each starting point has its equation, and `finish` frames the rest. -/
theorem initFollowsProbeThenMap : Obligations.InitFollowsProbeThenMap := by
  intro s
  refine ⟨fun hinit => ?_, fun hinit hprobe => ?_, fun base hinit hprobe hbase => ⟨fun hmap => ?_, fun hmap => ?_⟩⟩
  · exact ⟨_, exec_init_of_initialized hinit, rfl, rfl, rfl, rfl, rfl⟩
  · exact ⟨_, exec_init_of_inconclusive hinit hprobe, rfl, rfl, rfl, rfl, rfl⟩
  · exact ⟨_, exec_init_of_mapFail hinit hprobe hbase hmap, rfl, rfl, rfl, rfl, rfl⟩
  · exact ⟨_, exec_init_of_mapOk hinit hprobe hbase hmap, rfl, rfl, rfl, rfl, rfl⟩

/-! ### REFRESH (R79, R80, R82) -/

/-- R80: the answers given are drawn in order, so source `i` gets the answer at `i`. -/
theorem measAnswers_getElem? {n i : ℕ} {e : Env} {a : MeasAnswer} (hi : i < n) (ha : e.meas[i]? = some a) :
    (Env.measAnswers n e)[i]? = some a := by
  induction n generalizing i e with
  | zero => cases hi
  | succ n ih =>
    rw [Env.measAnswers]
    cases i with
    | zero =>
      rw [List.getElem?_cons_zero, Env.measAnswer, List.headD_eq_head?_getD, List.head?_eq_getElem?, ha, Option.getD_some]
    | succ i =>
      rw [List.getElem?_cons_succ]
      refine ih (Nat.lt_of_succ_lt_succ hi) ?_
      rw [Env.takeMeas, List.getElem?_tail, ha]

/-- Settles O18: `finish` frames everything but the frequencies, which are the answers drawn in order. -/
theorem refreshStoresEverySource : Obligations.RefreshStoresEverySource := by
  intro s
  refine ⟨_, rfl, rfl, ?_, ?_, rfl, rfl, rfl, rfl, rfl⟩
  · simp
  · intro i a hi ha
    simp [measAnswers_getElem? hi ha]

/-! ### What is stored for a measurement (R81) -/

theorem isPositive_iff_toRat {v : F64} (hfinite : v.isFinite = true) : v.isPositive = true ↔ 0 < v.toRat := by
  rw [F64.isPositive, F64.lt_iff_toRat (by decide) hfinite, F64.toRat_zero]

theorem sanitize_value_of_isFinite {v : F64} (hfinite : v.isFinite = true) :
    sanitize (.value v) = if 0 < v.toRat then v else F64.zero := by
  simp [sanitize, hfinite, isPositive_iff_toRat]

theorem sanitize_value_of_not_isFinite {v : F64} (hfinite : v.isFinite = false) : sanitize (.value v) = F64.zero := by
  simp [sanitize, hfinite]

/-- Settles O19, by the class of the measured value. -/
theorem sanitizeKeepsUsableValues : Obligations.SanitizeKeepsUsableValues := by
  refine ⟨rfl, fun v hfinite hpos => ?_, fun v hfinite hle => ?_, fun _ => sanitize_value_of_not_isFinite,
    sanitize_usable⟩
  · rw [sanitize_value_of_isFinite hfinite, if_pos hpos]
  · rw [sanitize_value_of_isFinite hfinite, if_neg hle.not_gt]

end Sys2Proof.Machine
end

section
/-! The ratio computation (R85 to R95): the tests in their order, what an accepted candidate computes, and the values that
BINARY64 represents, on which rounding does nothing. -/
namespace Sys2Proof

namespace F64

/-! ### Values that binary64 represents -/

/-- A magnitude, as the pattern with sign bit 0. -/
theorem sign_magnitude_ofNat {m : ℕ} (hm : m < 2 ^ 63) :
    sign (BitVec.ofNat 64 m) = false ∧ magnitude (BitVec.ofNat 64 m) = m := by
  rw [sign, BitVec.msb_eq_decide, decide_eq_false_iff_not, magnitude, BitVec.toNat_ofNat]
  omega

/-- A count below 2^53 of steps of 2^k units is a binary64 value: the count is doubled, at half the step, until it is normal or
the step is one unit. -/
theorem exists_toRat_eq_steps {k c : ℕ} (hc : c < 2 ^ 53) (hk : k ≤ 2045) :
    ∃ x : F64, x.isFinite = true ∧ x.toRat = (c * 2 ^ k : ℕ) / 2 ^ 1074 := by
  by_cases hgrid : k = 0 ∨ 2 ^ 52 ≤ c
  · obtain ⟨hsign, hmag⟩ := sign_magnitude_ofNat (m := k * 2 ^ 52 + c) (by omega)
    have hfinite : isFinite (BitVec.ofNat 64 (k * 2 ^ 52 + c)) = true := by
      rw [isFinite_iff, hmag]
      omega
    refine ⟨_, hfinite, ?_⟩
    rw [toRat_eq hfinite, hsign, hmag, unitsOf_steps hc.le hgrid]
    rfl
  · obtain ⟨hk0, hsmall⟩ := not_or.mp hgrid
    obtain ⟨j, rfl⟩ := Nat.exists_eq_succ_of_ne_zero hk0
    rw [Nat.pow_succ', ← Nat.mul_assoc]
    exact exists_toRat_eq_steps (by omega) (by omega)
termination_by k

theorem exists_toRat_eq_div {n : ℕ} (hn : n < 2 ^ 53) : ∃ x : F64, x.isFinite = true ∧ x.toRat = (n : ℚ) / 1024 := by
  obtain ⟨x, hfinite, hx⟩ := exists_toRat_eq_steps (k := 1064) hn (by decide)
  refine ⟨x, hfinite, ?_⟩
  have hunit : (2 : ℚ) ^ 1074 = 2 ^ 10 * 2 ^ 1064 := pow_add 2 10 1064
  have hstep : (2 : ℚ) ^ 10 = 1024 := by norm_num
  rw [hx, hunit, hstep, Nat.cast_mul, Nat.cast_pow, Nat.cast_ofNat, mul_div_mul_right _ _ (by positivity)]

/-- R88: the fractional part keeps the step of the value (a step of a whole number or more leaves none). -/
theorem exists_fraction_steps {x : F64} (hx : x.isFinite = true) (hnonneg : 0 ≤ x.toRat) :
    ∃ k c, c < 2 ^ 53 ∧ k ≤ 1074 ∧ x.toRat - ⌊x.toRat⌋₊ = (c * 2 ^ k : ℕ) / 2 ^ 1074 := by
  obtain ⟨k, c, hmag, hc, hgrid⟩ := exists_steps x.magnitude
  have hval : x.toRat = (c * 2 ^ k : ℕ) / (2 ^ 1074 : ℕ) := by
    rw [← abs_of_nonneg hnonneg, abs_toRat hx, hmag, unitsOf_steps hc.le hgrid, Nat.cast_pow, Nat.cast_ofNat]
  have hfrac : x.toRat - ⌊x.toRat⌋₊ = (c * 2 ^ k % 2 ^ 1074 : ℕ) / 2 ^ 1074 := by
    have hsplit : ((c * 2 ^ k : ℕ) : ℚ) = (2 ^ 1074 * (c * 2 ^ k / 2 ^ 1074) + c * 2 ^ k % 2 ^ 1074 : ℕ) := by
      rw [Nat.div_add_mod]
    rw [hval, Nat.floor_div_eq_div, hsplit, Nat.cast_add, Nat.cast_mul, Nat.cast_pow, Nat.cast_ofNat, add_div,
      mul_div_cancel_left₀ _ (by positivity), add_sub_cancel_left]
  obtain hk | hk := le_total k 1074
  · refine ⟨k, c % 2 ^ (1074 - k), (Nat.mod_le ..).trans_lt hc, hk, ?_⟩
    rw [hfrac, ← Nat.mul_mod_mul_right, ← pow_add, Nat.sub_add_cancel hk]
  · refine ⟨0, 0, by decide, by decide, ?_⟩
    rw [hfrac, Nat.mod_eq_zero_of_dvd ((pow_dvd_pow 2 hk).mul_left c), Nat.zero_mul]

theorem ofRat_toRat_of_isPositive {x : F64} (hx : x.isFinite = true) (hpos : x.isPositive = true) : ofRat x.toRat = x := by
  refine ofRat_toRat hx ?_
  rintro rfl
  exact absurd (Machine.sign_of_isPositive hx hpos) (by decide)

theorem ofRat_zero : ofRat 0 = zero := by
  rw [← toRat_zero, ofRat_toRat (by decide) (by decide)]

/-- Half a unit or less is rounded to no unit at all, the tie going to the even count 0. -/
theorem Rounds.eq_zero {v : ℚ} {k c : ℕ} (h : Rounds v k c) (hv : v ≤ 1 / 2) : k = 0 ∧ c = 0 := by
  have hk : k = 0 := by
    refine h.normal.resolve_right fun ⟨_, hle⟩ => ?_
    have hstep : (1 : ℚ) ≤ 2 ^ k := one_le_pow₀ one_le_two
    linarith
  subst hk
  obtain ⟨hhalf, htie, -⟩ := h
  rw [pow_zero, mul_one] at hhalf htie
  have hle := le_abs_self ((c : ℚ) - v)
  have hone : (c : ℚ) ≤ (1 : ℕ) := by
    push_cast
    linarith
  obtain rfl | rfl := Nat.le_one_iff_eq_zero_or_eq_one.mp (Nat.cast_le.mp hone)
  · exact ⟨rfl, rfl⟩
  · rw [Nat.cast_one] at hhalf htie hle
    exact absurd (htie (by linarith)) (by decide)

/-- R93: underflow to zero. -/
theorem ofRat_of_abs_le {x : ℚ} (hx : |x| ≤ 1 / 2 ^ 1075) : (ofRat x).isFinite = true ∧ (ofRat x).toRat = 0 := by
  obtain ⟨k, c, hrounds, hmag⟩ := ofRat_rounds x
  have hscaled : scaled x ≤ 1 / 2 := by
    have hunit : (2 : ℚ) ^ 1075 = 2 ^ 1074 * 2 := pow_succ 2 1074
    rw [scaled, ← le_div_iff₀ (by positivity), div_div, mul_comm 2, ← hunit]
    exact hx
  obtain ⟨rfl, rfl⟩ := hrounds.eq_zero hscaled
  have hmag0 : (ofRat x).magnitude = 0 := by omega
  have hfinite : (ofRat x).isFinite = true := by
    rw [isFinite_iff]
    omega
  have hunits : unitsOf 0 = 0 := by decide
  refine ⟨hfinite, ?_⟩
  rw [← abs_eq_zero, abs_toRat hfinite, hmag0, hunits, Nat.cast_zero, zero_div]

end F64

/-! ### The setting of NUMERICS (R85, R88) -/

/-- What an operation of R88's list yields: the rounded value under BINARY64, the exact one under EXACT (R85). -/
def Numerics.result (mode : Numerics) (x : ℚ) : ℚ :=
  match mode with
  | .binary64 => (F64.ofRat x).toRat
  | .exact => x

/-- An operation whose exact result is a positive binary64 value yields it in either setting. -/
theorem Numerics.result_toRat (mode : Numerics) {x : F64} (hfinite : x.isFinite = true) (hpos : x.isPositive = true) :
    mode.result x.toRat = x.toRat := by
  cases mode
  · exact congrArg F64.toRat (F64.ofRat_toRat_of_isPositive hfinite hpos)
  · rfl

theorem Numerics.result_zero (mode : Numerics) : mode.result 0 = 0 := by
  cases mode
  · exact (congrArg F64.toRat F64.ofRat_zero).trans F64.toRat_zero
  · rfl

namespace Machine

/-! ### The division and the tests (R85, R87, R93, R95) -/

theorem division_exact (f t : F64) : division .exact f t = some (f.toRat / t.toRat) := rfl

theorem division_binary64_of_isFinite {f t : F64} (h : (F64.ofRat (f.toRat / t.toRat)).isFinite = true) :
    division .binary64 f t = some (F64.ofRat (f.toRat / t.toRat)).toRat := by
  simp only [division, h, if_true]

theorem division_binary64_eq_none {f t : F64} (h : (F64.ofRat (f.toRat / t.toRat)).isFinite = false) :
    division .binary64 f t = none := by
  simp [division, h]

theorem division_binary64_eq_some {f t : F64} {d : ℚ} (h : division .binary64 f t = some d) :
    ∃ x : F64, x.isFinite = true ∧ x.toRat = d := by
  cases hfinite : (F64.ofRat (f.toRat / t.toRat)).isFinite
  · simp [division_binary64_eq_none hfinite] at h
  · rw [division_binary64_of_isFinite hfinite, Option.some_inj] at h
    exact ⟨_, hfinite, h⟩

theorem evalCandidate_of_disabled (mode : Numerics) (f t : F64) :
    evalCandidate mode false f t = .rejected .disabled := rfl

theorem evalCandidate_of_not_isPositive (mode : Numerics) {f : F64} (t : F64) (hpos : f.isPositive = false) :
    evalCandidate mode true f t = .rejected .noFrequency := by
  simp [evalCandidate, hpos]

section

variable {mode : Numerics} {f t : F64} (hpos : f.isPositive = true) (hfinite : f.isFinite = true)

include hpos hfinite

theorem evalCandidate_of_division_none (h : division mode f t = none) :
    evalCandidate mode true f t = .rejected .ratioAboveMax := by
  simp [evalCandidate, hpos, hfinite, h]

theorem evalCandidate_of_division {d : ℚ} (h : division mode f t = some d) :
    evalCandidate mode true f t =
      if d < Config.ratioMin then .rejected .ratioBelowMin
      else if Config.ratioMax < d then .rejected .ratioAboveMax
      else .accepted (evaluate mode f t d) := by
  simp [evalCandidate, hpos, hfinite, h]

theorem evalCandidate_of_lt {d : ℚ} (h : division mode f t = some d) (hlt : d < Config.ratioMin) :
    evalCandidate mode true f t = .rejected .ratioBelowMin := by
  rw [evalCandidate_of_division hpos hfinite h, if_pos hlt]

theorem evalCandidate_of_gt {d : ℚ} (h : division mode f t = some d) (hgt : Config.ratioMax < d) :
    evalCandidate mode true f t = .rejected .ratioAboveMax := by
  have hmin : Config.ratioMin ≤ Config.ratioMax := by norm_num [Config.ratioMin, Config.ratioMax]
  rw [evalCandidate_of_division hpos hfinite h, if_neg (hmin.trans hgt.le).not_gt, if_pos hgt]

theorem evalCandidate_of_mem_range {d : ℚ} (h : division mode f t = some d) (hmin : Config.ratioMin ≤ d)
    (hmax : d ≤ Config.ratioMax) : evalCandidate mode true f t = .accepted (evaluate mode f t d) := by
  rw [evalCandidate_of_division hpos hfinite h, if_neg hmin.not_gt, if_neg hmax.not_gt]

end

/-- Settles O23: one equation per outcome of the tests. -/
theorem reasonsFollowTheOrderOfTests : Obligations.ReasonsFollowTheOrderOfTests := fun mode f t =>
  ⟨division_exact f t, division_binary64_of_isFinite, evalCandidate_of_disabled mode f t,
    evalCandidate_of_not_isPositive mode t, fun hpos hfinite _ h =>
      ⟨evalCandidate_of_lt hpos hfinite h, evalCandidate_of_gt hpos hfinite h, evalCandidate_of_mem_range hpos hfinite h⟩⟩

/-- Settles O28: the overflow threshold gives no division, and half a unit at most gives the division 0. -/
theorem overflowAndUnderflowAreRejected : Obligations.OverflowAndUnderflowAreRejected := by
  intro f t hf hfpos ht htpos
  have hquotient : 0 ≤ f.toRat / t.toRat :=
    div_nonneg ((isPositive_iff_toRat hf).mp hfpos).le ((isPositive_iff_toRat ht).mp htpos).le
  rw [← abs_of_nonneg hquotient]
  constructor
  · intro hover
    have hnone := division_binary64_eq_none ((F64.isFinite_ofRat_eq_false_iff _).mpr hover)
    exact ⟨hnone, evalCandidate_of_division_none hfpos hf hnone⟩
  · intro hunder
    obtain ⟨hfinite, hzero⟩ := F64.ofRat_of_abs_le hunder
    have hsome := division_binary64_of_isFinite hfinite
    rw [hzero] at hsome
    exact ⟨hsome, evalCandidate_of_lt hfpos hf hsome two_pos⟩

/-! ### The divisor (R86, R87, R92) -/

/-- Settles O25: rounding half up moves a number by 1/2 at most, here in units of 1/1024. -/
theorem fixedPointHasClosedForm : Obligations.FixedPointHasClosedForm := by
  intro d hd
  have hfloor := fixedPoint_eq_floor hd
  refine ⟨hfloor, ?_⟩
  have hle := Nat.floor_le (by linarith : 0 ≤ d * 1024 + 1 / 2)
  have hlt := Nat.lt_floor_add_one (d * 1024 + 1 / 2)
  rw [← hfloor] at hle hlt
  rw [abs_le]
  constructor <;> linarith

theorem fixedPoint_eq_add (d : ℚ) : fixedPoint d = ⌊d⌋₊ * 1024 + ⌊(d - ⌊d⌋₊) * 1024 + 1 / 2⌋₊ := by
  simp [fixedPoint, roundHalfUp, Config.fracScale]

theorem fixedPoint_natCast_div (k : ℕ) : fixedPoint ((k : ℚ) / 1024) = k := by
  rw [fixedPoint_eq_floor (by positivity), div_mul_cancel₀ _ (by norm_num), Nat.floor_eq_iff (by positivity)]
  constructor <;> linarith

/-- The fraction that rounds up to 1024, and carries into the integer part. -/
theorem roundedFraction_of_ge {d : ℚ} (h : 2047 / 2 ≤ (d - ⌊d⌋₊) * 1024) : ⌊(d - ⌊d⌋₊) * 1024 + 1 / 2⌋₊ = 1024 := by
  have hfraction := Nat.lt_floor_add_one d
  rw [Nat.floor_eq_iff (by linarith)]
  push_cast
  constructor <;> linarith

theorem roundedFraction_lt {d : ℚ} (h : (d - ⌊d⌋₊) * 1024 < 2047 / 2) : ⌊(d - ⌊d⌋₊) * 1024 + 1 / 2⌋₊ < 1024 := by
  rw [Nat.floor_lt' (by decide)]
  push_cast
  linarith

/-! ### What an accepted candidate computes (R87, R88, R90) -/

@[simp] theorem evaluate_division (mode : Numerics) (f t : F64) (d : ℚ) : (evaluate mode f t d).division = d := by
  cases mode <;> rfl

theorem evaluate_ratio (mode : Numerics) (f t : F64) (d : ℚ) :
    ratioOf (evaluate mode f t d).divI (evaluate mode f t d).divF = (fixedPoint d : ℚ) / 1024 := by
  rw [evaluate_divI, evaluate_divF, ratioOf_div_mod]

@[simp] theorem evaluate_actualHz (mode : Numerics) (f t : F64) (d : ℚ) :
    (evaluate mode f t d).actualHz = F64.ofRat (f.toRat / (fixedPoint d / 1024)) := by
  rw [← evaluate_ratio mode f t d]
  cases mode <;> rfl

@[simp] theorem evaluate_errHz (mode : Numerics) (f t : F64) (d : ℚ) : (evaluate mode f t d).errHz =
    F64.ofRat |t.toRat - mode.result (f.toRat / (fixedPoint d / 1024))| := by
  rw [← evaluate_ratio mode f t d]
  cases mode <;> rfl

@[simp] theorem evaluate_error (mode : Numerics) (f t : F64) (d : ℚ) : (evaluate mode f t d).error =
    mode.result |t.toRat - mode.result (f.toRat / (fixedPoint d / 1024))| := by
  rw [← evaluate_ratio mode f t d]
  cases mode <;> rfl

/-- Settles O26: N is 1024 times the integer part plus the rounded fraction, and everything else is computed from N. -/
theorem carryKeepsTheDivisor : Obligations.CarryKeepsTheDivisor := by
  intro mode f t d _ e ratio actual
  have hn := fixedPoint_eq_add d
  have hratio : (fixedPoint d : ℚ) / 1024 = ratio := by
    rw [hn]
    push_cast
    ring
  have hactual : mode.result (f.toRat / ratio) = actual := by cases mode <;> rfl
  refine ⟨fun hcarry => ?_, fun hfits => ?_, ?_, ?_, ?_, ?_⟩
  · rw [evaluate_divI, evaluate_divF, hn, roundedFraction_of_ge hcarry]
    omega
  · have hlt := roundedFraction_lt hfits
    rw [evaluate_divI, evaluate_divF, hn]
    omega
  · rw [evaluate_ratio, hratio]
  · rw [evaluate_actualHz, hratio]
  · rw [evaluate_errHz, hratio, hactual]
  · rw [evaluate_error, hratio, hactual]
    cases mode <;> rfl

/-- Settles O27: the fraction is a count below 2^53 of the division's steps, its product with 1024 the same count of steps
2^10 times as wide, and N is below 2^53. -/
theorem intermediatesAreExactInBinary64 : Obligations.IntermediatesAreExactInBinary64 := by
  intro enabled f t e h
  obtain ⟨-, -, -, d, hdivision, hmin, hmax, rfl⟩ := evalCandidate_accepted h
  obtain ⟨x, hfinite, rfl⟩ := division_binary64_eq_some hdivision
  obtain ⟨k, c, hc, hk, hfraction⟩ := F64.exists_fraction_steps hfinite (by linarith)
  obtain ⟨-, hn⟩ := fixedPoint_mem_range hmin hmax
  rw [evaluate_division, evaluate_n, hfraction]
  refine ⟨F64.exists_toRat_eq_steps hc (by omega), ?_, F64.exists_toRat_eq_div (by omega)⟩
  obtain ⟨y, hy, hyval⟩ := F64.exists_toRat_eq_steps (k := k + 10) hc (by omega)
  refine ⟨y, hy, ?_⟩
  have hwider : ((2 ^ 10 : ℕ) : ℚ) = 1024 := by norm_num
  rw [hyval, pow_add, ← mul_assoc, Nat.cast_mul, hwider, mul_div_right_comm]

/-! ### An exact divisor (R94) -/

/-- A quotient that is a positive binary64 value is the division in either setting. -/
theorem division_of_quotient_eq_toRat (mode : Numerics) {f t x : F64} (hfinite : x.isFinite = true)
    (hpos : x.isPositive = true) (h : f.toRat / t.toRat = x.toRat) : division mode f t = some x.toRat := by
  have hround := F64.ofRat_toRat_of_isPositive hfinite hpos
  cases mode
  · rw [division_binary64_of_isFinite (by rwa [h, hround]), h, hround]
  · rw [division_exact, h]

/-- Settles O29: k / 1024 is a binary64 value, so the division is exact; then so are the frequency t and the error 0. -/
theorem exactDivisorHasZeroError : Obligations.ExactDivisorHasZeroError := by
  intro mode f t k hf ht htpos hmin hmax hft
  have htpos' : 0 < t.toRat := (isPositive_iff_toRat ht).mp htpos
  have hmin' : (2048 : ℚ) ≤ k := by exact_mod_cast hmin
  have hmax' : (k : ℚ) ≤ 4193280 := by exact_mod_cast hmax
  have hratio : (0 : ℚ) < k / 1024 := by linarith
  have hfpos : f.isPositive = true := by
    rw [isPositive_iff_toRat hf, hft]
    exact mul_pos htpos' hratio
  obtain ⟨x, hx, hxval⟩ := F64.exists_toRat_eq_div (n := k) (by omega)
  have hdivision : division mode f t = some ((k : ℚ) / 1024) := by
    rw [← hxval]
    refine division_of_quotient_eq_toRat mode hx ?_ ?_
    · rwa [isPositive_iff_toRat hx, hxval]
    · rw [hft, hxval, mul_div_cancel_left₀ _ htpos'.ne']
  have hactual : f.toRat / (k / 1024) = t.toRat := by rw [hft, mul_div_cancel_right₀ _ hratio.ne']
  have herror : |t.toRat - mode.result t.toRat| = 0 := by rw [mode.result_toRat ht htpos, sub_self, abs_zero]
  have hlow : (2 : ℚ) ≤ k / 1024 := by linarith
  have hhigh : (k : ℚ) / 1024 ≤ 4095 := by linarith
  refine ⟨_, evalCandidate_of_mem_range hfpos hf hdivision hlow hhigh, ?_, ?_, ?_, ?_, ?_, ?_⟩
  · rw [evaluate_n, fixedPoint_natCast_div]
  · rw [evaluate_divI, fixedPoint_natCast_div]
  · rw [evaluate_divF, fixedPoint_natCast_div]
  · rw [evaluate_actualHz, fixedPoint_natCast_div, hactual, F64.ofRat_toRat_of_isPositive ht htpos]
  · rw [evaluate_errHz, fixedPoint_natCast_div, hactual, herror, F64.ofRat_zero, F64.zero]
  · rw [evaluate_error, fixedPoint_natCast_div, hactual, herror, mode.result_zero]

end Machine

end Sys2Proof
end

section
/-! Selection (R98 to R106). The loop over SOURCES looks through the accepted candidates for the least of a lexicographic
order: the merit, which compares error and frequency, then the index. -/
namespace Sys2Proof.Machine

/-! ### The accepted candidates and their order -/

/-- The candidate that a row with its index makes, if it is accepted (R99). -/
def candidateOf (mode : Numerics) (t : F64) (entry : (Source × F64) × ℕ) : Option Candidate :=
  match verdictOf mode t entry.1 with
  | .accepted e => some ⟨entry.2, entry.1.1.id, entry.1.2, e⟩
  | .rejected _ => none

/-- The accepted candidates of a table whose first row has index `i`, in index order. -/
def candidatesFrom (mode : Numerics) (t : F64) (i : ℕ) (rows : List (Source × F64)) : List Candidate :=
  (rows.zipIdx i).filterMap (candidateOf mode t)

/-- What R100 and R101 compare: the smaller error first, then the higher frequency. -/
def merit (e : Evaluation) (f : F64) : ℚ ×ₗ ℚ := toLex (e.error, -f.toRat)

/-- The merit, and at equal merit the lower index (R103). -/
def Candidate.rank (c : Candidate) : (ℚ ×ₗ ℚ) ×ₗ ℕ := toLex (merit c.eval c.freq, c.idx)

theorem merit_lt_iff {e e' : Evaluation} {f f' : F64} :
    merit e f < merit e' f' ↔ e.error < e'.error ∨ e.error = e'.error ∧ f'.toRat < f.toRat := by
  simp [merit, Prod.Lex.toLex_lt_toLex]

theorem merit_eq_iff {e e' : Evaluation} {f f' : F64} :
    merit e f = merit e' f' ↔ e.error = e'.error ∧ f.toRat = f'.toRat := by
  simp [merit]

theorem rank_le_iff {c d : Candidate} : c.rank ≤ d.rank ↔
    merit c.eval c.freq < merit d.eval d.freq ∨ merit c.eval c.freq = merit d.eval d.freq ∧ c.idx ≤ d.idx :=
  Prod.Lex.toLex_le_toLex

theorem rank_lt_iff {c d : Candidate} : c.rank < d.rank ↔
    merit c.eval c.freq < merit d.eval d.freq ∨ merit c.eval c.freq = merit d.eval d.freq ∧ c.idx < d.idx :=
  Prod.Lex.toLex_lt_toLex

theorem candidateOf_eq_some {mode : Numerics} {t : F64} {entry : (Source × F64) × ℕ} {c : Candidate} :
    candidateOf mode t entry = some c ↔ entry.2 = c.idx ∧ entry.1.1.id = c.src ∧ entry.1.2 = c.freq
      ∧ verdictOf mode t entry.1 = .accepted c.eval := by
  cases c
  cases hverdict : verdictOf mode t entry.1 <;> simp [candidateOf, hverdict]

section

variable {mode : Numerics} {t : F64} {rows : List (Source × F64)} {c d : Candidate}

theorem mem_candidates : c ∈ candidatesFrom mode t 0 rows ↔ ∃ row : Source × F64,
    rows[c.idx]? = some row ∧ row.1.id = c.src ∧ row.2 = c.freq ∧ verdictOf mode t row = .accepted c.eval := by
  rw [candidatesFrom, List.mem_filterMap]
  constructor
  · rintro ⟨⟨row, i⟩, hmem, hc⟩
    obtain ⟨hidx, hrest⟩ := candidateOf_eq_some.mp hc
    exact ⟨row, hidx ▸ List.mem_zipIdx_iff_getElem?.mp hmem, hrest⟩
  · rintro ⟨row, hrow, hrest⟩
    exact ⟨(row, c.idx), List.mem_zipIdx_iff_getElem?.mpr hrow, candidateOf_eq_some.mpr ⟨rfl, hrest⟩⟩

/-- An accepted row gives a candidate under its own index. -/
theorem mem_candidates_of_accepted {row : Source × F64} {i : ℕ} {e : Evaluation} (hrow : rows[i]? = some row)
    (haccepted : verdictOf mode t row = .accepted e) : ⟨i, row.1.id, row.2, e⟩ ∈ candidatesFrom mode t 0 rows :=
  mem_candidates.mpr ⟨row, hrow, rfl, rfl, haccepted⟩

theorem eq_of_mem_candidates (hc : c ∈ candidatesFrom mode t 0 rows) (hd : d ∈ candidatesFrom mode t 0 rows)
    (hidx : c.idx = d.idx) : c = d := by
  obtain ⟨row, hrow, hsrc, hfreq, heval⟩ := mem_candidates.mp hc
  obtain ⟨row', hrow', hsrc', hfreq', heval'⟩ := mem_candidates.mp hd
  obtain rfl : row' = row := by rwa [hidx, hrow', Option.some_inj] at hrow
  cases c
  cases d
  simp_all

theorem freq_isFinite_of_mem_candidates (hc : c ∈ candidatesFrom mode t 0 rows) : c.freq.isFinite = true := by
  obtain ⟨row, -, -, hfreq, haccepted⟩ := mem_candidates.mp hc
  obtain ⟨-, -, hfinite, -⟩ := evalCandidate_accepted haccepted
  rwa [hfreq] at hfinite

theorem candidates_pairwise : (candidatesFrom mode t 0 rows).Pairwise fun c d => c.idx < d.idx := by
  have hindices : rows.zipIdx.Pairwise fun a b => a.2 < b.2 := by
    rw [← List.pairwise_map, List.zipIdx_map_snd]
    exact List.pairwise_lt_range' 1
  refine hindices.filterMap _ fun a b hlt c hc d hd => ?_
  rwa [(candidateOf_eq_some.mp hc).1, (candidateOf_eq_some.mp hd).1] at hlt

theorem candidates_eq_nil_iff : candidatesFrom mode t 0 rows = [] ↔ ¬ SomeAccepted mode t rows := by
  rw [List.eq_nil_iff_forall_not_mem]
  constructor
  · rintro hnone ⟨row, hmem, e, haccepted⟩
    obtain ⟨i, hrow⟩ := List.mem_iff_getElem?.mp hmem
    exact hnone _ (mem_candidates_of_accepted hrow haccepted)
  · intro hnone c hc
    obtain ⟨row, hrow, -, -, haccepted⟩ := mem_candidates.mp hc
    exact hnone ⟨row, List.mem_of_getElem? hrow, c.eval, haccepted⟩

/-- What `Wins` asks of each accepted row is an inequality of ranks. -/
theorem rank_le_iff_of_row {row : Source × F64} {j : ℕ} {e : Evaluation} :
    c.rank ≤ Candidate.rank ⟨j, row.1.id, row.2, e⟩ ↔ c.eval.error < e.error ∨ (c.eval.error = e.error
      ∧ (row.2.toRat < c.freq.toRat ∨ (row.2.toRat = c.freq.toRat ∧ c.idx ≤ j))) := by
  rw [rank_le_iff, merit_lt_iff, merit_eq_iff, @eq_comm _ row.2.toRat]
  tauto

/-- `Wins` names the candidate of least rank. -/
theorem wins_iff_rank_le : Wins mode t rows c ↔
    c ∈ candidatesFrom mode t 0 rows ∧ ∀ d ∈ candidatesFrom mode t 0 rows, c.rank ≤ d.rank := by
  constructor
  · rintro ⟨⟨row, hrow, -, hrest⟩, hleast⟩
    refine ⟨mem_candidates.mpr ⟨row, hrow, hrest⟩, fun d hd => ?_⟩
    obtain ⟨row', hrow', -, hfreq, haccepted⟩ := mem_candidates.mp hd
    have hle := rank_le_iff_of_row.mpr (hleast d.idx row' d.eval hrow' haccepted)
    rwa [hfreq] at hle
  · rintro ⟨hc, hleast⟩
    obtain ⟨row, hrow, hid, hfreq, haccepted⟩ := mem_candidates.mp hc
    obtain ⟨henabled, -⟩ := evalCandidate_accepted haccepted
    exact ⟨⟨row, hrow, henabled, hid, hfreq, haccepted⟩, fun j row' e hrow' haccepted' =>
      rank_le_iff_of_row.mp (hleast _ (mem_candidates_of_accepted hrow' haccepted'))⟩

/-! ### The loop -/

theorem selectFrom_eq_foldl (i : ℕ) (best : Option Candidate) :
    selectFrom mode t i best rows = (candidatesFrom mode t i rows).foldl keepBest best := by
  induction rows generalizing i best with
  | nil => rfl
  | cons row rows ih =>
    cases hverdict : verdictOf mode t row <;>
      simp [selectFrom, candidatesFrom, candidateOf, hverdict, ih]

/-- A later candidate replaces the best so far exactly when its rank is less: the higher index loses a tie (R103). -/
theorem beats_iff_rank_lt (hidx : d.idx < c.idx) (hc : c.freq.isFinite = true) (hd : d.freq.isFinite = true) :
    c.beats d = true ↔ c.rank < d.rank := by
  rw [rank_lt_iff, merit_lt_iff]
  simp [Candidate.beats, F64.lt_iff_toRat hd hc, hidx.not_gt]

theorem foldl_keepBest_eq_argmin {cs : List Candidate} (hidx : cs.Pairwise fun c d => c.idx < d.idx)
    (hfinite : ∀ c ∈ cs, c.freq.isFinite = true) : cs.foldl keepBest none = cs.argmin Candidate.rank := by
  induction cs using List.reverseRecOn with
  | nil => rfl
  | append_singleton cs c ih =>
    obtain ⟨hinit, -, hlast⟩ := List.pairwise_append.mp hidx
    obtain ⟨hfiniteInit, hfiniteLast⟩ := List.forall_mem_append.mp hfinite
    rw [List.foldl_concat, List.argmin_concat, ih hinit hfiniteInit]
    cases hbest : cs.argmin Candidate.rank with
    | none => rfl
    | some b =>
      have hb := List.argmin_mem hbest
      have hc := List.mem_singleton_self c
      simp only [keepBest, beats_iff_rank_lt (hlast b hb c hc) (hfiniteLast c hc) (hfiniteInit b hb)]

theorem select_eq_argmin : select mode t rows = (candidatesFrom mode t 0 rows).argmin Candidate.rank := by
  rw [select, selectFrom_eq_foldl]
  exact foldl_keepBest_eq_argmin candidates_pairwise fun _ => freq_isFinite_of_mem_candidates

theorem select_eq_none_iff : select mode t rows = none ↔ ¬ SomeAccepted mode t rows := by
  rw [select_eq_argmin, List.argmin_eq_none, candidates_eq_nil_iff]

theorem select_eq_some_iff : select mode t rows = some c ↔ Wins mode t rows c := by
  rw [select_eq_argmin, wins_iff_rank_le]
  constructor
  · intro hc
    exact ⟨List.argmin_mem hc, fun d hd => List.le_of_mem_argmin hd hc⟩
  · rintro ⟨hc, hleast⟩
    cases hd : (candidatesFrom mode t 0 rows).argmin Candidate.rank with
    | none => simp [List.argmin_eq_none.mp hd] at hc
    | some d =>
      have hmem := List.argmin_mem hd
      have hrank : c.rank = d.rank := (hleast d hmem).antisymm (List.le_of_mem_argmin hc hd)
      rw [eq_of_mem_candidates hc hmem (congrArg (fun r => (ofLex r).2) hrank)]

end

/-- Settles O30: the loop is `argmin` of the rank over the accepted candidates, and `Wins` names the least rank. -/
theorem selectFindsTheWinner : Obligations.SelectFindsTheWinner := by
  intro mode t rows
  refine ⟨fun c => select_eq_some_iff, select_eq_none_iff, List.length_map .., fun i row hrow => ?_⟩
  rw [reasonsOf, List.getElem?_map, hrow]
  rfl

/-! ### Another order of SOURCES (R105) -/

section

variable {mode : Numerics} {t : F64} {rows rows' : List (Source × F64)}

theorem someAccepted_of_perm (hperm : rows.Perm rows') : SomeAccepted mode t rows ↔ SomeAccepted mode t rows' := by
  simp only [SomeAccepted, hperm.mem_iff]

/-- The winner's merit is the least, whatever the indices are. -/
theorem Wins.merit_le {c : Candidate} (hc : Wins mode t rows c) {row : Source × F64} {e : Evaluation} (hmem : row ∈ rows)
    (haccepted : verdictOf mode t row = .accepted e) : merit c.eval c.freq ≤ merit e row.2 := by
  obtain ⟨i, hrow⟩ := List.mem_iff_getElem?.mp hmem
  obtain hlt | ⟨heq, -⟩ := rank_le_iff.mp ((wins_iff_rank_le.mp hc).2 _ (mem_candidates_of_accepted hrow haccepted))
  · exact hlt.le
  · exact heq.le

theorem Wins.exists_row {c : Candidate} (hc : Wins mode t rows c) :
    ∃ row ∈ rows, row.1.id = c.src ∧ row.2 = c.freq ∧ verdictOf mode t row = .accepted c.eval := by
  obtain ⟨row, hrow, hrest⟩ := mem_candidates.mp (wins_iff_rank_le.mp hc).1
  exact ⟨row, List.mem_of_getElem? hrow, hrest⟩

end

/-- Settles O31: the two winners' merits bound each other, since each winner's row stands in both tables. -/
theorem selectionIsIndependentOfOrder : Obligations.SelectionIsIndependentOfOrder := by
  intro mode t rows rows' hperm
  refine ⟨?_, fun c c' hc hc' => ?_⟩
  · rw [select_eq_none_iff, select_eq_none_iff, someAccepted_of_perm hperm]
  · rw [select_eq_some_iff] at hc hc'
    obtain ⟨row, hmem, hid, hfreq, haccepted⟩ := hc.exists_row
    obtain ⟨row', hmem', hid', hfreq', haccepted'⟩ := hc'.exists_row
    have hle := hc.merit_le (hperm.mem_iff.mpr hmem') haccepted'
    have hge := hc'.merit_le (hperm.mem_iff.mp hmem) haccepted
    rw [hfreq'] at hle
    rw [hfreq] at hge
    obtain ⟨herror, htoRat⟩ := merit_eq_iff.mp (hge.antisymm hle)
    refine ⟨herror, htoRat, fun hunique => ?_⟩
    obtain rfl : row' = row := hunique row' (hperm.mem_iff.mpr hmem') row hmem c'.eval c.eval haccepted' haccepted herror
      (by rw [hfreq, hfreq', htoRat])
    exact ⟨hid'.symm.trans hid, hfreq'.symm.trans hfreq, Verdict.accepted.inj (haccepted'.symm.trans haccepted)⟩

end Sys2Proof.Machine
end

section
/-! SELPROG (R106 to R112): the ends of its micro-step P0, and the whole command from P0 to its response, cut at the labels
S1, S3, S4 and P3. -/
namespace Sys2Proof.Machine

/-! ### P0 (R102, R106, R108) -/

/-- The state that P0 leaves with a winner (R108). -/
def State.holding (s : State) (t : F64) (c : Candidate) : State :=
  ({ s.evaluated t with eng := { (s.evaluated t).eng with sel := c.selection, stopFor := .selprog } } : State).goto .s1

section

variable {s : State} {t : F64}

theorem targetValid_iff : targetValid t = true ↔ t.isFinite = true ∧ 0 < t.toRat := by
  rw [targetValid, Bool.and_eq_true]
  exact and_congr_right isPositive_iff_toRat

theorem exec_selprog_of_not_init (hinit : s.eng.init = false) :
    exec (.selprog t) s = .next (s.finish .notInitialized) := by
  simp [exec, execSelprog, hinit]

theorem exec_selprog_of_invalid (hinit : s.eng.init = true) (ht : t.isFinite = false ∨ t.toRat ≤ 0) :
    exec (.selprog t) s = .next (s.finish .invalidTarget) := by
  have hinvalid : targetValid t = false := by
    rw [← Bool.not_eq_true, targetValid_iff]
    rintro ⟨hfinite, hpos⟩
    obtain hnot | hle := ht
    · simp [hnot] at hfinite
    · exact hpos.not_ge hle
  simp [exec, execSelprog, hinit, hinvalid]

theorem exec_selprog_of_valid (hinit : s.eng.init = true) (hfinite : t.isFinite = true) (hpos : 0 < t.toRat) :
    exec (.selprog t) s = .next (selprogSelect t s) := by
  simp [exec, execSelprog, hinit, targetValid_iff.mpr ⟨hfinite, hpos⟩]

theorem selprogSelect_of_none (hnone : s.winner t = none) : selprogSelect t s =
    ({ s.evaluated t with eng := (s.evaluated t).eng.clearResults } : State).finish .noSuitableSource := by
  rw [State.winner] at hnone
  simp only [selprogSelect, hnone]
  rfl

theorem selprogSelect_of_some {c : Candidate} (hc : s.winner t = some c) : selprogSelect t s = s.holding t c := by
  rw [State.winner] at hc
  simp only [selprogSelect, hc]
  rfl

theorem winner_eq_none_iff : s.winner t = none ↔ ¬ SomeAccepted s.cfg.numerics t s.rows :=
  select_eq_none_iff

theorem exists_winner (h : SomeAccepted s.cfg.numerics t s.rows) :
    ∃ c, s.winner t = some c ∧ Wins s.cfg.numerics t s.rows c := by
  obtain ⟨c, hc⟩ := Option.ne_none_iff_exists'.mp (winner_eq_none_iff.not_left.mpr h)
  exact ⟨c, hc, select_eq_some_iff.mp hc⟩

end

/-- A rejected source never gets the reason ACCEPTED (R66, R95). -/
theorem evalCandidate_ne_rejected_accepted (mode : Numerics) (enabled : Bool) (f t : F64) :
    evalCandidate mode enabled f t ≠ .rejected .accepted := by
  unfold evalCandidate
  split_ifs
  · nofun
  · nofun
  · nofun
  split
  · nofun
  split_ifs
  · nofun
  · nofun
  · nofun

theorem reasonsOf_ne_accepted {mode : Numerics} {t : F64} {rows : List (Source × F64)} (h : ¬ SomeAccepted mode t rows) :
    ∀ r ∈ reasonsOf mode t rows, r ≠ .accepted := by
  rintro r hr rfl
  obtain ⟨row, hmem, hreason⟩ := List.mem_map.mp hr
  cases hverdict : verdictOf mode t row with
  | accepted e => exact h ⟨row, hmem, e, hverdict⟩
  | rejected r =>
    obtain rfl : r = .accepted := by rwa [hverdict] at hreason
    exact evalCandidate_ne_rejected_accepted _ _ _ _ hverdict

/-- Settles O32: the two failed guards, in their order. -/
theorem selprogGuardsComeFirst : Obligations.SelprogGuardsComeFirst := by
  refine fun s tgt => ⟨fun hinit => ?_, fun hinit htgt => ?_⟩
  · exact ⟨_, exec_selprog_of_not_init hinit, rfl, rfl, rfl, rfl, rfl⟩
  · exact ⟨_, exec_selprog_of_invalid hinit htgt, rfl, rfl, rfl, rfl, rfl⟩

/-- Settles O33: P0 without a winner. -/
theorem noSuitableSourceClearsResults : Obligations.NoSuitableSourceClearsResults := by
  intro s tgt hinit hfinite hpos hnone
  have hexec := exec_selprog_of_valid hinit hfinite hpos
  rw [selprogSelect_of_none (winner_eq_none_iff.mpr hnone)] at hexec
  exact ⟨_, hexec, rfl, reasonsOf_length s tgt, reasonsOf_ne_accepted hnone, rfl, rfl, rfl, rfl⟩

/-- Settles O34: P0 with a winner. -/
theorem selprogHoldsTheWinner : Obligations.SelprogHoldsTheWinner := by
  intro s tgt hinit hfinite hpos hsome
  obtain ⟨c, hc, hwins⟩ := exists_winner hsome
  have hexec := exec_selprog_of_valid hinit hfinite hpos
  rw [selprogSelect_of_some hc] at hexec
  exact ⟨_, c, hexec, hwins, rfl, rfl, rfl, rfl, rfl⟩

/-! ### Several steps -/

theorem run_succ {k : ℕ} {s u : State} (hstep : step s = .next u) : run (k + 1) s = run k u := by
  simp only [run, hstep]

theorem run_add {j k : ℕ} {s t : State} (h : run j s = .next t) : run (j + k) s = run k t := by
  induction j generalizing s with
  | zero =>
    cases h
    rw [Nat.zero_add]
  | succ j ih =>
    unfold run at h
    split at h
    next u hstep => rw [Nat.add_right_comm, run_succ hstep, ih h]
    · cases h
    · cases h

/-! ### The polls (R116, R117), for either caller of the stop sequence (R113) -/

/-- From S3 at `s` to S4 at `t`: the polls change the count, the timeout flag and BUSY; each but the last waits; and a
generator that is off is not busy at their end unless they timed out. -/
structure PollsTo (s t : State) (polls : List Event) : Prop where
  cfg : t.cfg = s.cfg
  caller : t.env.caller = s.env.caller
  eng : t.eng = { s.eng with pollCount := t.eng.pollCount, stopTimeout := t.eng.stopTimeout, phase := .s4 }
  dev : s.dev.sameButBusy t.dev
  quiet : s.dev.ctl.enab = false → t.eng.stopTimeout = false → t.dev.ctl.busy = false
  trace : t.trace = s.trace ++ polls
  events : ∀ e ∈ polls, e = .wait s.cfg.pollInterval ∨ ∃ v, e = .read s.ctlAddr v
  waits : polls.countP Event.isWait + 1 = polls.countP Event.isRead

theorem generatorMove_not_busy {s : State} (henab : s.dev.ctl.enab = false) (hbusy : s.dev.ctl.busy = false) :
    s.generatorMove.dev.ctl.busy = false := by
  obtain heq | heq := generatorMove_busy s
  · rw [heq, hbusy]
  · rw [heq, henab, Bool.false_and]

theorem sameButBusy_trans {d d' d'' : Device} (h : d.sameButBusy d') (h' : d'.sameButBusy d'') : d.sameButBusy d'' := by
  obtain ⟨hdiv, hpin, hctl⟩ := h
  obtain ⟨hdiv', hpin', hctl'⟩ := h'
  exact ⟨hdiv'.trans hdiv, hpin'.trans hpin, by rw [hctl', hctl]⟩

/-- The last poll, on BUSY = 0 or at the bound. -/
theorem pollsTo_last {s : State} (timeout : Bool) (hquiet : timeout = false → s.dev.ctl.busy = false) :
    PollsTo s (({ s.counted with eng := { s.counted.eng with stopTimeout := timeout } } : State).goto .s4).generatorMove
      [.read s.ctlAddr (s.memReadValue .ctl)] where
  cfg := rfl
  caller := rfl
  eng := rfl
  dev := sameButBusy_generatorMove _
  quiet := fun henab htimeout => generatorMove_not_busy henab (hquiet htimeout)
  trace := rfl
  events := List.forall_mem_singleton.mpr (.inr ⟨_, rfl⟩)
  waits := rfl

/-- A poll that goes on, before the polls after it. -/
theorem PollsTo.cons {s t : State} {polls : List Event}
    (h : PollsTo ((s.counted.wait s.cfg.pollInterval).goto .s3).generatorMove t polls) :
    PollsTo s t (.read s.ctlAddr (s.memReadValue .ctl) :: .wait s.cfg.pollInterval :: polls) where
  cfg := h.cfg
  caller := h.caller
  eng := h.eng
  dev := sameButBusy_trans (sameButBusy_generatorMove ((s.counted.wait s.cfg.pollInterval).goto .s3)) h.dev
  quiet := fun henab => by
    obtain ⟨-, hkept, -⟩ := generatorMove_ctl_fields ((s.counted.wait s.cfg.pollInterval).goto .s3)
    exact h.quiet (hkept.trans henab)
  trace := h.trace.trans (by simp [State.counted, State.regAddr])
  events := List.forall_mem_cons.mpr ⟨.inr ⟨_, rfl⟩, List.forall_mem_cons.mpr ⟨.inl rfl, h.events⟩⟩
  waits := by simpa [List.countP_cons, Event.isRead, Event.isWait] using h.waits

/-- R117: with `n + 1` polls left to the bound, S4 is reached in as many steps as polls are made, at most `n + 1`. -/
theorem run_polls {s : State} {n : ℕ} (hp : s.eng.phase = .s3) (hquiet : s.env.presentsNow = false)
    (hleft : s.eng.pollCount + (n + 1) = (s.cfg.pollMax : ℕ)) :
    ∃ (t : State) (polls : List Event), run (polls.countP Event.isRead) s = .next t
      ∧ polls.countP Event.isRead ≤ n + 1 ∧ PollsTo s t polls := by
  induction n generalizing s with
  | zero =>
    have hstep := step_of_s3 hp hquiet
    rw [poll_eq, if_pos hleft] at hstep
    split_ifs at hstep with hbusy
    · exact ⟨_, _, run_succ hstep, le_rfl, pollsTo_last s.eng.stopTimeout fun _ => hbusy⟩
    · exact ⟨_, _, run_succ hstep, le_rfl, pollsTo_last true nofun⟩
  | succ n ih =>
    have hstep := step_of_s3 hp hquiet
    rw [poll_eq, if_neg (by omega : s.eng.pollCount + 1 ≠ (s.cfg.pollMax : ℕ))] at hstep
    split_ifs at hstep with hbusy
    · exact ⟨_, _, run_succ hstep, Nat.le_add_left .., pollsTo_last s.eng.stopTimeout fun _ => hbusy⟩
    · have hcount : s.eng.pollCount + 1 + (n + 1) = (s.cfg.pollMax : ℕ) := by omega
      obtain ⟨t, polls, hrun, hle, hpolls⟩ :=
        ih (s := ((s.counted.wait s.cfg.pollInterval).goto .s3).generatorMove) rfl hquiet hcount
      refine ⟨t, _, ?_, ?_, hpolls.cons⟩
      · rw [← hrun, ← run_succ hstep]
        simp [List.countP_cons, Event.isRead]
      · simpa [List.countP_cons, Event.isRead] using hle

/-! ### The segments of the command after P0 (R110 to R114, R118) -/

section

variable {s : State}

theorem step_of_p0 (hp : s.eng.phase = .p0) (hquiet : s.env.presentsNow = false) :
    step s = thenGenerator (exec (.selprog s.eng.tgtIn) s) := by
  rw [step_by_label s (overrun_of_quiet hquiet), hp]

theorem step_of_s4_for_selprog (hp : s.eng.phase = .s4) (hfor : s.eng.stopFor = .selprog)
    (hquiet : s.env.presentsNow = false) : step s = .next (s.parkPin.goto .p1).generatorMove := by
  rw [step_by_label s (overrun_of_quiet hquiet), hp]
  simp only [park, hfor]
  rfl

theorem step_of_p1 (hp : s.eng.phase = .p1) (hquiet : s.env.presentsNow = false) :
    step s = .next ((s.memWrite .div (divWord s.eng.sel.divI s.eng.sel.divF)).goto .p2).generatorMove := by
  rw [step_by_label s (overrun_of_quiet hquiet), hp]
  rfl

theorem step_of_p2 (hp : s.eng.phase = .p2) (hquiet : s.env.presentsNow = false) :
    step s = .next (settle s).generatorMove := by
  rw [step_by_label s (overrun_of_quiet hquiet), hp]
  rfl

theorem step_of_p3 (hp : s.eng.phase = .p3) (hquiet : s.env.presentsNow = false) :
    step s = .next ((s.memWrite .ctl (enableWord s.eng.sel.src)).goto .p4).generatorMove := by
  rw [step_by_label s (overrun_of_quiet hquiet), hp]
  rfl

theorem step_of_p4 (hp : s.eng.phase = .p4) (hquiet : s.env.presentsNow = false) :
    step s = .next (recordResult s).generatorMove := by
  rw [step_by_label s (overrun_of_quiet hquiet), hp]
  rfl

/-- S1 and S2 disable the generator. -/
theorem run_disable (hp : s.eng.phase = .s1) (hquiet : s.env.presentsNow = false) :
    ∃ (t : State) (r : Word), run 2 s = .next t
    ∧ t.cfg = s.cfg ∧ t.env.caller = s.env.caller
    ∧ t.eng = { s.eng with ctlRead := r, pollCount := 0, phase := .s3 }
    ∧ t.trace = s.trace ++ [.read s.ctlAddr r, .write s.ctlAddr (disableWord r)] :=
  ⟨_, s.memReadValue .ctl, run_two (step_of_s1 hp hquiet) (step_of_s2 rfl hquiet), rfl, rfl, rfl,
    List.append_assoc s.trace [_] [_]⟩

/-- S4, P1 and P2 park the pin, program the held divider and settle. -/
theorem run_program (hp : s.eng.phase = .s4) (hfor : s.eng.stopFor = .selprog) (hquiet : s.env.presentsNow = false) :
    ∃ t : State, run 3 s = .next t ∧ t.cfg = s.cfg ∧ t.env.caller = s.env.caller ∧ t.eng = { s.eng with phase := .p3 }
      ∧ t.trace = s.trace
        ++ [.park, .write s.divAddr (divWord s.eng.sel.divI s.eng.sel.divF), .wait s.cfg.settleTime]
      ∧ t.dev.div = ⟨s.eng.sel.divI, s.eng.sel.divF⟩ ∧ t.dev.pin = .input := by
  have hrun := (run_succ (k := 2) (step_of_s4_for_selprog hp hfor hquiet)).trans
    (run_two (step_of_p1 rfl hquiet) (step_of_p2 rfl hquiet))
  refine ⟨_, hrun, rfl, rfl, rfl, ?_, ?_, ?_⟩
  · simp [settle, State.regAddr, State.divAddr, State.cmBase]
  · simp [settle]
  · simp [settle]

/-- P3 and P4 enable the held source, record the selection and respond. -/
theorem run_enable (hp : s.eng.phase = .p3) (hquiet : s.env.presentsNow = false) : ∃ t : State, run 2 s = .next t
    ∧ t.eng = { s.eng with resValid := true, res := s.eng.sel, status := .ok, phase := .idle }
    ∧ t.trace = s.trace ++ [.write s.ctlAddr (enableWord s.eng.sel.src), t.eng.response]
    ∧ t.dev.div = s.dev.div ∧ t.dev.pin = s.dev.pin
    ∧ t.dev.ctl = ⟨s.eng.sel.src, true, false, t.dev.ctl.busy, false, 1#2⟩ := by
  obtain ⟨hdiv, hpin, hctl⟩ := sameButBusy_trans
    (sameButBusy_generatorMove ((s.memWrite .ctl (enableWord s.eng.sel.src)).goto .p4))
    (sameButBusy_generatorMove (recordResult ((s.memWrite .ctl (enableWord s.eng.sel.src)).goto .p4).generatorMove))
  rw [goto_dev, memWrite_dev, writeReg_enableWord] at hdiv hpin hctl
  exact ⟨_, run_two (step_of_p3 hp hquiet) (step_of_p4 rfl hquiet), rfl, List.append_assoc s.trace [_] [_], hdiv, hpin,
    hctl⟩

end

/-! ### The whole command (R109, R121) -/

/-- What the micro-steps of a running command keep for those after them, from S1 on. -/
structure Continues (s t : State) : Prop where
  cfg : t.cfg = s.cfg
  caller : t.env.caller = s.env.caller
  base : t.eng.periphBase = s.eng.periphBase
  sel : t.eng.sel = s.eng.sel
  stopFor : t.eng.stopFor = s.eng.stopFor

theorem Continues.of_eng {s t : State} {e : Engine} (hcfg : t.cfg = s.cfg) (hcaller : t.env.caller = s.env.caller)
    (heng : t.eng = e) (hbase : e.periphBase = s.eng.periphBase) (hsel : e.sel = s.eng.sel)
    (hfor : e.stopFor = s.eng.stopFor) : Continues s t :=
  ⟨hcfg, hcaller, heng ▸ hbase, heng ▸ hsel, heng ▸ hfor⟩

theorem PollsTo.continues {s t : State} {polls : List Event} (h : PollsTo s t polls) : Continues s t :=
  .of_eng h.cfg h.caller h.eng rfl rfl rfl

section

variable {s t u : State} (h : Continues s t)

include h

theorem Continues.trans (h' : Continues t u) : Continues s u :=
  ⟨h'.cfg.trans h.cfg, h'.caller.trans h.caller, h'.base.trans h.base, h'.sel.trans h.sel, h'.stopFor.trans h.stopFor⟩

theorem Continues.quiet (hquiet : s.env.presentsNow = false) : t.env.presentsNow = false := by
  rw [← hquiet, Env.presentsNow, Env.presentsNow, h.caller]

theorem Continues.ctlAddr : t.ctlAddr = s.ctlAddr := by
  rw [State.ctlAddr, State.ctlAddr, State.cmBase, State.cmBase, h.cfg, h.base]

theorem Continues.divAddr : t.divAddr = s.divAddr := by
  rw [State.divAddr, State.divAddr, State.cmBase, State.cmBase, h.cfg, h.base]

end

/-- From S1 a SELPROG ends with the selection that it holds programmed, enabled and recorded (R109, R121, R154, R156). -/
theorem run_selprog_from_s1 {s : State} (hp : s.eng.phase = .s1) (hfor : s.eng.stopFor = .selprog)
    (hquiet : s.env.presentsNow = false) :
    ∃ (k : ℕ) (t : State) (r : Word) (polls : List Event), k ≤ (s.cfg.pollMax : ℕ) + 7 ∧ run k s = .next t
      ∧ t.trace = s.trace ++ [.read s.ctlAddr r, .write s.ctlAddr (disableWord r)] ++ polls
        ++ [.park, .write s.divAddr (divWord t.eng.res.divI t.eng.res.divF), .wait s.cfg.settleTime,
            .write s.ctlAddr (enableWord s.eng.sel.src), t.eng.response]
      ∧ (∀ e ∈ polls, e = .wait s.cfg.pollInterval ∨ ∃ v, e = .read s.ctlAddr v)
      ∧ 1 ≤ polls.countP Event.isRead ∧ polls.countP Event.isRead ≤ (s.cfg.pollMax : ℕ)
      ∧ t.eng.phase = .idle ∧ t.eng.status = .ok ∧ t.eng.resValid = true ∧ t.eng.res = s.eng.sel
      ∧ t.dev.div = ⟨t.eng.res.divI, t.eng.res.divF⟩
      ∧ t.dev.ctl = ⟨s.eng.sel.src, true, false, t.dev.ctl.busy, false, 1#2⟩ ∧ t.dev.pin = .input := by
  obtain ⟨s₃, r, hrun₃, hcfg₃, hcaller₃, heng₃, htrace₃⟩ := run_disable hp hquiet
  have h₃ : Continues s s₃ := .of_eng hcfg₃ hcaller₃ heng₃ rfl rfl rfl
  have hmax := s.cfg.pollMax.natPred_add_one
  have hleft : s₃.eng.pollCount + (s.cfg.pollMax.natPred + 1) = (s₃.cfg.pollMax : ℕ) := by
    rw [heng₃, hcfg₃, hmax, Nat.zero_add]
  obtain ⟨s₄, polls, hrun₄, hreads, hpolls⟩ := run_polls (by rw [heng₃]) (h₃.quiet hquiet) hleft
  have h₄ := h₃.trans hpolls.continues
  obtain ⟨p₃, hrunP₃, hcfgP₃, hcallerP₃, hengP₃, htraceP₃, hdiv, hpin⟩ :=
    run_program (by rw [hpolls.eng]) (h₄.stopFor.trans hfor) (h₄.quiet hquiet)
  have hP₃ := h₄.trans (.of_eng hcfgP₃ hcallerP₃ hengP₃ rfl rfl rfl)
  obtain ⟨t, hrun, heng, htrace, hdiv', hpin', hctl⟩ := run_enable (by rw [hengP₃]) (hP₃.quiet hquiet)
  have hres : t.eng.res = s.eng.sel := by rw [heng, hP₃.sel]
  rw [h₄.sel, ← hres] at hdiv
  rw [hP₃.sel] at hctl
  refine ⟨2 + (polls.countP Event.isRead + (3 + 2)), t, r, polls, by omega, ?_, ?_, ?_, ?_, by omega,
    by rw [heng], by rw [heng], by rw [heng], hres, hdiv'.trans hdiv, hctl, hpin'.trans hpin⟩
  · rw [run_add hrun₃, run_add hrun₄, run_add hrunP₃, hrun]
  · rw [htrace, htraceP₃, hpolls.trace, htrace₃, h₄.divAddr, h₄.sel, h₄.cfg, hP₃.ctlAddr, hP₃.sel, hres]
    simp
  · rw [← h₃.cfg, ← h₃.ctlAddr]
    exact hpolls.events
  · rw [← hpolls.waits]
    exact Nat.le_add_left ..

/-- Settles O47: P0 holds the winner (O34), and the rest of the command runs from S1. -/
theorem selprogEndsWithTheWinnerProgrammed : Obligations.SelprogEndsWithTheWinnerProgrammed := by
  intro s hp hinit hquiet hfinite hpos hsome
  obtain ⟨c, hc, hwins⟩ := exists_winner hsome
  have hexec := exec_selprog_of_valid hinit hfinite hpos
  rw [selprogSelect_of_some hc] at hexec
  have hstep := step_of_p0 hp hquiet
  rw [hexec] at hstep
  obtain ⟨k, t, r, polls, hk, hrun, htrace, hevents, hsomeRead, hbound, hidle, hok, hvalid, hres, hdiv, hctl, hpin⟩ :=
    run_selprog_from_s1 (s := (s.holding s.eng.tgtIn c).generatorMove) rfl rfl hquiet
  exact ⟨k + 1, t, c, r, polls, Nat.succ_le_succ hk, (run_succ hstep).trans hrun, hwins, htrace, hevents, hsomeRead,
    hbound, hidle, hok, hvalid, hres, hdiv, hctl, hpin⟩

end Sys2Proof.Machine
end

section
/-! STOP (R114, R118, R119, R122): its guard, the micro-steps that carry no word, and the whole command from T0 to its response,
cut at the labels S1, S3 and S4; and what any step does to the pin and to KILL, FLIP and MASH (R124). -/
namespace Sys2Proof.Machine

/-! ### T0 (R119) -/

/-- The state that T0 leaves once its guard has passed (R113, R119). -/
def State.stopping (s : State) : State :=
  ({ s with eng := { s.eng with stopFor := .stop } } : State).goto .s1

section

variable {s : State}

theorem exec_stop_of_not_init (hinit : s.eng.init = false) : exec .stop s = .next (s.finish .notInitialized) := by
  simp [exec, execStop, hinit]

theorem exec_stop_of_init (hinit : s.eng.init = true) : exec .stop s = .next s.stopping := by
  simp [exec, execStop, hinit, State.stopping]

end

/-- Settles O41: the failed guard and the passed one. -/
theorem stopEntersTheStopSequence : Obligations.StopEntersTheStopSequence := by
  refine fun s => ⟨fun hinit => ?_, fun hinit => ?_⟩
  · exact ⟨_, exec_stop_of_not_init hinit, rfl, rfl, rfl, rfl, rfl⟩
  · exact ⟨_, exec_stop_of_init hinit, rfl, rfl, rfl, rfl, rfl⟩

/-! ### The micro-steps that carry no word (R111, R112, R118, R119) -/

section

variable {s : State}

theorem park_eq (s : State) : park s = s.parkPin.goto (if s.eng.stopFor = .selprog then .p1 else .t1) := by
  cases hfor : s.eng.stopFor <;> simp [park, hfor]

theorem step_of_s4 (hp : s.eng.phase = .s4) (hquiet : s.env.presentsNow = false) :
    step s = .next (park s).generatorMove := by
  rw [step_by_label s (overrun_of_quiet hquiet), hp]
  rfl

theorem step_of_t1 (hp : s.eng.phase = .t1) (hquiet : s.env.presentsNow = false) :
    step s = .next (stopDone s).generatorMove := by
  rw [step_by_label s (overrun_of_quiet hquiet), hp]
  rfl

end

/-- Settles O44: each of the four labels has its equation, and the generator's move changes BUSY alone. -/
theorem wordlessStepsFollowTheirRules : Obligations.WordlessStepsFollowTheirRules := by
  refine fun s hquiet => ⟨fun hp => ?_, fun hp => ?_, fun hp => ?_, fun hp => ?_⟩
  · have hstep := step_of_s4 hp hquiet
    rw [park_eq] at hstep
    exact ⟨_, hstep, rfl, generatorMove_pin _, sameButBusy_generatorMove (s.parkPin.goto _), rfl⟩
  · exact ⟨_, step_of_p2 hp hquiet, rfl, sameButBusy_generatorMove (settle s), rfl⟩
  · exact ⟨_, step_of_p4 hp hquiet, rfl, sameButBusy_generatorMove (recordResult s), rfl⟩
  · exact ⟨_, step_of_t1 hp hquiet, rfl, sameButBusy_generatorMove (stopDone s), rfl⟩

/-! ### The device after a stop (R114, R118, R122) -/

/-- The device with the generator disabled (R114). -/
def Device.disabled (d : Device) : Device := { d with ctl := { d.ctl with enab := false, kill := false } }

/-- The device with the pin parked (R118). -/
def Device.parked (d : Device) : Device := { d with pin := .input }

theorem sameButBusy_disabled {d d' : Device} (h : d.sameButBusy d') : d.disabled.sameButBusy d'.disabled := by
  obtain ⟨hdiv, hpin, hctl⟩ := h
  exact ⟨hdiv, hpin, by rw [Device.disabled, hctl]; rfl⟩

theorem sameButBusy_parked {d d' : Device} (h : d.sameButBusy d') : d.parked.sameButBusy d'.parked := by
  obtain ⟨hdiv, -, hctl⟩ := h
  exact ⟨hdiv, rfl, hctl⟩

theorem enab_of_disabled {d d' : Device} (h : d.disabled.sameButBusy d') : d'.ctl.enab = false := by
  obtain ⟨-, -, hctl⟩ := h
  exact congrArg CtlReg.enab hctl

/-! ### The whole command (R119, R122, R125) -/

section

variable {s t : State}

theorem step_of_t0 (hp : s.eng.phase = .t0) (hquiet : s.env.presentsNow = false) :
    step s = thenGenerator (exec .stop s) := by
  rw [step_by_label s (overrun_of_quiet hquiet), hp]

/-- What S1 and S2 leave at the device (O42). -/
theorem disabled_of_run_two (hp : s.eng.phase = .s1) (hquiet : s.env.presentsNow = false) (hrun : run 2 s = .next t) :
    s.dev.disabled.sameButBusy t.dev := by
  obtain ⟨t', hrun', hctl, hdiv, hpin, -⟩ := disableKeepsSourceFlipAndMash s hp hquiet
  obtain rfl : t' = t := Host.Outcome.next.inj (hrun'.symm.trans hrun)
  exact ⟨hdiv, hpin, hctl⟩

/-- S4 and T1 park the pin and end the stop; a disabled generator that is not busy stays so. -/
theorem run_park (hp : s.eng.phase = .s4) (hfor : s.eng.stopFor = .stop) (hquiet : s.env.presentsNow = false) :
    ∃ t : State, run 2 s = .next t
      ∧ t.eng = { s.eng with resValid := false, status := .ok, phase := .idle }
      ∧ t.trace = s.trace ++ [.park, t.eng.response]
      ∧ s.dev.parked.sameButBusy t.dev
      ∧ (s.dev.ctl.enab = false → s.dev.ctl.busy = false → t.dev.ctl.busy = false) := by
  have hstep := step_of_s4 hp hquiet
  rw [park_eq, if_neg (by simp [hfor])] at hstep
  refine ⟨_, run_two hstep (step_of_t1 rfl hquiet), rfl, List.append_assoc s.trace [_] [_], ?_, fun henab hbusy => ?_⟩
  · exact sameButBusy_trans (sameButBusy_generatorMove (s.parkPin.goto .t1))
      (sameButBusy_generatorMove (stopDone (s.parkPin.goto .t1).generatorMove))
  · obtain ⟨-, hkept, -⟩ := generatorMove_ctl_fields (s.parkPin.goto .t1)
    exact generatorMove_not_busy (hkept.trans henab) (generatorMove_not_busy henab hbusy)

/-- The polls read and wait, and do nothing else at the interfaces (R116). -/
theorem PollsTo.countP_eq_zero {polls : List Event} (h : PollsTo s t polls) {p : Event → Bool}
    (hwait : ∀ n, p (.wait n) = false) (hread : ∀ a v, p (.read a v) = false) : polls.countP p = 0 := by
  rw [List.countP_eq_zero]
  intro e he
  obtain rfl | ⟨v, rfl⟩ := h.events e he
  · simp [hwait]
  · simp [hread]

/-- From S1 a STOP ends with the generator disabled and the pin parked (R122, R125). -/
theorem run_stop_from_s1 (hp : s.eng.phase = .s1) (hfor : s.eng.stopFor = .stop) (hquiet : s.env.presentsNow = false) :
    ∃ (k : ℕ) (s₃ s₄ t : State) (r : Word) (polls : List Event), k ≤ (s.cfg.pollMax : ℕ) + 4 ∧ run k s = .next t
      ∧ PollsTo s₃ s₄ polls ∧ polls.countP Event.isRead ≤ (s.cfg.pollMax : ℕ)
      ∧ t.trace = s.trace ++ ([.read s.ctlAddr r, .write s.ctlAddr (disableWord r)] ++ polls
        ++ [.park, t.eng.response])
      ∧ t.eng.phase = .idle ∧ t.eng.status = .ok ∧ t.eng.resValid = false ∧ t.eng.res = s.eng.res
      ∧ s.dev.disabled.parked.sameButBusy t.dev
      ∧ (t.eng.stopTimeout = false → t.dev.ctl.busy = false) := by
  obtain ⟨s₃, r, hrun₃, hcfg₃, hcaller₃, heng₃, htrace₃⟩ := run_disable hp hquiet
  have h₃ : Continues s s₃ := .of_eng hcfg₃ hcaller₃ heng₃ rfl rfl rfl
  have hdev₃ := disabled_of_run_two hp hquiet hrun₃
  have hmax := s.cfg.pollMax.natPred_add_one
  have hleft : s₃.eng.pollCount + (s.cfg.pollMax.natPred + 1) = (s₃.cfg.pollMax : ℕ) := by
    rw [heng₃, hcfg₃, hmax, Nat.zero_add]
  obtain ⟨s₄, polls, hrun₄, hreads, hpolls⟩ := run_polls (by rw [heng₃]) (h₃.quiet hquiet) hleft
  have h₄ := h₃.trans hpolls.continues
  have hdev₄ := sameButBusy_trans hdev₃ hpolls.dev
  obtain ⟨t, hrun, heng, htrace, hdev, hbusy⟩ :=
    run_park (by rw [hpolls.eng]) (h₄.stopFor.trans hfor) (h₄.quiet hquiet)
  refine ⟨2 + (polls.countP Event.isRead + 2), s₃, s₄, t, r, polls, by omega, ?_, hpolls, by omega, ?_,
    by rw [heng], by rw [heng], by rw [heng], by rw [heng, hpolls.eng, heng₃],
    sameButBusy_trans (sameButBusy_parked hdev₄) hdev, fun htimeout => ?_⟩
  · rw [run_add hrun₃, run_add hrun₄, hrun]
  · rw [htrace, hpolls.trace, htrace₃]
    simp
  · rw [heng] at htimeout
    exact hbusy (enab_of_disabled hdev₄) (hpolls.quiet (enab_of_disabled hdev₃) htimeout)

end

/-- The events of a stop are those of its polls and four more. -/
theorem countP_around_polls (p : Event → Bool) (a b c d : Event) (polls : List Event) :
    ([a, b] ++ polls ++ [c, d]).countP p = polls.countP p + [a, b, c, d].countP p := by
  have hperm : ([a, b] ++ polls ++ [c, d]).Perm (polls ++ [a, b] ++ [c, d]) := List.perm_append_comm.append_right _
  rw [hperm.countP_eq, List.append_assoc, List.countP_append]
  rfl

/-- Settles O46: T0 enters the stop sequence (O41), the rest of the command runs from S1, and the four events that are not the
polls' are a read, a write, the park and the response. -/
theorem stopEndsWithinThePollBound : Obligations.StopEndsWithinThePollBound := by
  intro s hp hinit hquiet
  have hstep := step_of_t0 hp hquiet
  rw [exec_stop_of_init hinit] at hstep
  obtain ⟨k, s₃, s₄, t, r, polls, hk, hrun, hpolls, hreads, htrace, hidle, hok, hvalid, hres, hdev, hbusy⟩ :=
    run_stop_from_s1 (s := s.stopping.generatorMove) rfl rfl hquiet
  have hdev₁ : s.dev.sameButBusy s.stopping.generatorMove.dev := sameButBusy_generatorMove s.stopping
  obtain ⟨hdiv, hpin, hctl⟩ := sameButBusy_trans (sameButBusy_parked (sameButBusy_disabled hdev₁)) hdev
  refine ⟨k + 1, t, _, Nat.succ_le_succ hk, (run_succ hstep).trans hrun, htrace, hidle, hok, hvalid, hres, hctl, hbusy,
    hdiv, hpin, ?_⟩
  have hwaits := hpolls.waits
  have hbound : polls.countP Event.isRead ≤ (s.cfg.pollMax : ℕ) := hreads
  have hwrites := hpolls.countP_eq_zero (p := Event.isWrite) (fun _ => rfl) (fun _ _ => rfl)
  have hparks := hpolls.countP_eq_zero (p := Event.isPark) (fun _ => rfl) (fun _ _ => rfl)
  simp only [countP_around_polls, hwrites, hparks]
  change 2 ≤ polls.countP Event.isRead + 1 ∧ polls.countP Event.isRead + 1 ≤ (s.cfg.pollMax : ℕ) + 1
    ∧ polls.countP Event.isWait + 0 + 1 ≤ (s.cfg.pollMax : ℕ) ∧ 0 + 1 = 1 ∧ 0 + 1 = 1
  omega

/-! ### The pin, KILL, FLIP and MASH (R118, R124) -/

/-- What a step from `s` to `u` may do at the device: the pin is parked at S4 or set from outside at IDLE, KILL and FLIP stand
only where they stood, and MASH is kept or made 1. -/
structure Restrained (s u : State) : Prop where
  pin : u.dev.pin ≠ s.dev.pin →
    (s.eng.phase = .s4 ∧ u.dev.pin = .input)
      ∨ (s.eng.phase = .idle ∧ s.env.caller.head? = some (.setPin u.dev.pin)) := by simp
  kill : u.dev.ctl.kill = true → s.dev.ctl.kill = true := by simp
  flip : u.dev.ctl.flip = true → s.dev.ctl.flip = true := by simp
  mash : u.dev.ctl.mash = s.dev.ctl.mash ∨ u.dev.ctl.mash = 1#2 := by simp

/-- Five branches touch the device; S2 writes back the fields that CTL holds, by the invariant. -/
theorem Branch.restrained {s u : State} (hu : Branch s u) (h : s.Inv) : Restrained s u := by
  cases hu with
  | setPin f rest hp hc => exact { pin := fun _ => .inr ⟨hp, by simp [hc]⟩ }
  | disables src flip mash hp hsrc hflip hmash =>
    obtain ⟨-, hflip', hmash'⟩ := h.readCurrent hp
    exact { flip := by simp [hflip, hflip'], mash := by simp [hmash, hmash'] }
  | parksFor p hp => exact { pin := fun _ => .inl ⟨hp, rfl⟩ }
  | programs => exact {}
  | enables => exact {}
  | _ => exact ⟨fun hpin => absurd rfl hpin, id, id, .inl rfl⟩

theorem generatorMove_restrained {s u : State} (h : Restrained s u) : Restrained s u.generatorMove := by
  obtain ⟨-, -, hkill, hflip, hmash⟩ := generatorMove_ctl_fields u
  exact ⟨by simpa using h.pin, by simpa [hkill] using h.kill, by simpa [hflip] using h.flip,
    by simpa [hmash] using h.mash⟩

/-- R124: bit 5, KILL, of a disable word. -/
theorem disableWord_kill (r : Word) : (disableWord r).getLsbD 5 = false := by
  simp [disableWord, Config.passwd]

theorem enableWord_kill : ∀ src : BitVec 4, (enableWord src).getLsbD 5 = false := by
  decide

/-- Settles O51: what the branch of the step does at the device, and the two words written to CTL. -/
theorem engineNeverDrivesThePinNorKills : Obligations.EngineNeverDrivesThePinNorKills := by
  intro s t hinv hstep
  obtain ⟨u, hu, rfl⟩ := step_branch hstep
  obtain ⟨hpin, hkill, hflip, hmash⟩ := generatorMove_restrained (hu.restrained hinv)
  refine ⟨hpin, hkill, hflip, hmash, fun es htrace a w hmem hp1 => ?_⟩
  obtain ⟨-, rfl⟩ | ⟨hp, -⟩ | ⟨-, rfl⟩ := word_of_write_mem_accesses (write_mem_accesses hstep htrace hmem)
  · exact disableWord_kill _
  · exact absurd hp hp1
  · exact enableWord_kill _

end Sys2Proof.Machine
end

section
/-! Errors (R59, R126, R131, R132): an illegal command word is answered at once, and a command's first micro-step either ends
it or enters the stop sequence, with no access made and the device untouched. -/
namespace Sys2Proof.Machine

/-! ### An illegal command word (R59, R132) -/

theorem accept_of_illegal {cmd : Word} (h : cmd.toNat = 0 ∨ 4 < cmd.toNat) (s : State) (tgt : F64) :
    s.accept cmd tgt = s.illegalCommand := by
  rw [State.accept, decode, decodeCommand_of_illegal h tgt]

theorem illegalCommand_eng_of_idle {s : State} (hp : s.eng.phase = .idle) :
    s.illegalCommand.eng = { s.eng with status := .illegalCommand, stopTimeout := false } := by
  rw [illegalCommand_eng, ← hp]

/-- Settles O12: the idle engine answers, then the generator makes its move. -/
theorem illegalCommandChangesStatusOnly : Obligations.IllegalCommandChangesStatusOnly := by
  intro s cmd tgt waits rest hp hc hillegal
  rw [step_of_idle hp, idleStep_of_present hc, accept_of_illegal hillegal]
  exact ⟨_, rfl, illegalCommand_eng_of_idle hp, sameButBusy_generatorMove (State.illegalCommand _), rfl, rfl, rfl⟩

/-! ### The first micro-step of a command (R126, R131) -/

/-- The labels at which the four commands begin (R25). -/
def Phase.First (p : Phase) : Prop := p = .i1 ∨ p = .f1 ∨ p = .p0 ∨ p = .t0

/-- What the engine does from `s` to `u` at a command's first label: the command ends with its response alone, or goes on at S1
with nothing to report. -/
structure EndsOrGoesOn (s u : State) : Prop where
  dev : u.dev = s.dev
  ends : u.eng.phase = .idle → u.trace = s.trace ++ [u.eng.response]
  goesOn : u.eng.phase ≠ .idle → u.eng.phase = .s1 ∧ u.trace = s.trace ∧ u.eng.status = s.eng.status

section

variable {s x : State} {st : Status} (hdev : x.dev = s.dev) (htrace : x.trace = s.trace)
include hdev htrace

theorem endsOrGoesOn_finish : EndsOrGoesOn s (x.finish st) where
  dev := hdev
  ends _ := by rw [finish_trace, htrace]
  goesOn hp := absurd rfl hp

theorem endsOrGoesOn_goto_s1 (hstatus : x.eng.status = s.eng.status) : EndsOrGoesOn s (x.goto .s1) where
  dev := hdev
  ends := nofun
  goesOn _ := ⟨rfl, htrace, hstatus⟩

end

/-- Six branches leave a first label; the others leave another label. -/
theorem Branch.endsOrGoesOn {s u : State} (hu : Branch s u) (hfirst : s.eng.phase.First) : EndsOrGoesOn s u := by
  cases hu with
  | answers => exact endsOrGoesOn_finish rfl rfl
  | maps => exact endsOrGoesOn_finish rfl rfl
  | refresh => exact endsOrGoesOn_finish rfl rfl
  | noSource => exact endsOrGoesOn_finish rfl rfl
  | selects => exact endsOrGoesOn_goto_s1 rfl rfl rfl
  | stops => exact endsOrGoesOn_goto_s1 rfl rfl rfl
  | _ => exact absurd hfirst (by simp [Phase.First, *])

/-- Settles O52: the branch of the step leaves the device as it was, and the generator's move changes BUSY alone. -/
theorem errorsArePrecise : Obligations.ErrorsArePrecise := by
  intro s t hstep hfirst
  obtain ⟨u, hu, rfl⟩ := step_branch hstep
  obtain ⟨hdev, hends, hgoesOn⟩ := hu.endsOrGoesOn hfirst
  exact ⟨hdev ▸ sameButBusy_generatorMove u, hends, hgoesOn⟩

end Sys2Proof.Machine
end
